-- ==== Sys2Proof/Word.lean ====
section
/-! DEFINITION. The widths of the block's values (00_scope.md R11, R13). -/

namespace Sys2Proof

/-- A byte is 8 bits (R13). -/
abbrev Byte := BitVec 8

/-- The tick value `now` and DEADLINE, `TICKW = 32` bits (R11, D3). -/
abbrev Tick := BitVec 32

/-- Payload lengths and receive capacities, `LENW = 16` bits (R11, D7). -/
abbrev Len := BitVec 16

/-- RX_CNT, `CNTW = 9` bits (R11, D7). -/
abbrev Count := BitVec 9

/-- The request word, 64 bits (R76). -/
abbrev ReqWord := BitVec 64

/-- The event word, 16 bits (R82). -/
abbrev EvtWord := BitVec 16

/-- The response word, 16 bits (R84). -/
abbrev RespWord := BitVec 16

end Sys2Proof
end

