-- ==== Sys2Proof/Config.lean ====
section
/-! DEFINITION. The parameters of the block: those the source fixes (R9), those it leaves open (R10),
and the free values (R190). -/

namespace Sys2Proof

/-- The configuration `cfg = (CRC_TABLE, BYTE_TIMEOUT)` of R17: the two parameters the source leaves
open (R10, D1, D2). No rule assumes anything of the table but that it is a fixed table of 256 bytes,
and of the timeout but that it is a number of ticks below `2^32`. It is held in `State.params`, which
no step writes, so that every statement about all states is about all configurations (log 3). -/
structure Parameters where
  /-- CRC_TABLE, 256 entries of 8 bits (R10, R53). -/
  crcTable : Vector Byte 256
  /-- BYTE_TIMEOUT, in ticks (R10). -/
  byteTimeout : Tick
deriving DecidableEq, Repr

/-- The table of the machine that `State.reset` describes: open, so a constant with no body
(R10, D1; log 3). -/
opaque Config.crcTable : Vector Byte 256

/-- The per-byte timeout of the machine that `State.reset` describes: open, so a constant with no body
(R10, D2; log 3). -/
opaque Config.byteTimeout : Tick

/-- The configuration of the machine that `State.reset` describes (R242 (4)). -/
def Config.parameters : Parameters := ⟨Config.crcTable, Config.byteTimeout⟩

/-- The VALUE of a GET_RXLEN that is not valid, drawn per request (R190, D23; log 4): a free value for
each value of the counter `State.draws`. -/
opaque Config.freeRxlen : Nat → Byte

/-- `MAGIC = 0x55` (R9). -/
def Config.magic : Byte := 0x55

/-- `CRC_INIT = 0xFF` (R9). -/
def Config.crcInit : Byte := 0xFF

/-- `MAX_LEN = 255`: the largest payload of a frame (R9). -/
def Config.maxLen : Nat := 255

/-- `HDR_LEN = 3`: magic, length, crc (R9). -/
def Config.hdrLen : Nat := 3

/-- The size of TXPAY and of RXBUF, 256 bytes each (R9, R51, R52). -/
def Config.spaceSize : Nat := 256

end Sys2Proof
end

