-- ==== Sys2Proof/Syntax.lean ====
section
/-! DEFINITION. The operations of the block: one constructor per row of spec/opcode_table.json (R93),
the encoded forms they arrive in (R70), and the inputs of a step (R17). -/

namespace Sys2Proof

/-- Every row of the opcode table (R93). A payload list carries its own length: `|P| = LEN` always
holds (R67, R77). -/
inductive Instr where
  /-- GET_STATUS (R189). -/
  | reqGetStatus
  /-- SEND (R181): EXPECT, RETRY, RXMAX and the payload list `P`. -/
  | reqSend (expect : Bool) (retry : Byte) (rxmax : Len) (payload : List Byte)
  /-- RECV (R185): RXMAX. -/
  | reqRecv (rxmax : Len)
  /-- POLL (R164). -/
  | reqPoll
  /-- GET_RXLEN (R190). -/
  | reqGetRxlen
  /-- CRC8, the request (R103). -/
  | reqCrc8 (payload : List Byte)
  /-- RESERVED_REQUEST: a request word that matches no row (R80). -/
  | reqReserved (word : ReqWord)
  /-- TXC: transmission complete (R133). -/
  | evtTxc
  /-- RXB: the byte received (R136). -/
  | evtRxb (data : Byte)
  /-- LERR: line fault (R139). -/
  | evtLerr
  /-- RESERVED_EVENT: an event word that matches no row (R83). -/
  | evtReserved (word : EvtWord)
  /-- FRAME: a wire frame with its crc field and its payload; the length field is `|payload|` (R71). -/
  | wireFrame (crc : Byte) (payload : List Byte)
  /-- CRC8_COMPUTE: the internal function CRC8 compute (R101). -/
  | fnCrc8Compute (data : List Byte)
  /-- ENCODE: internal (R111, R123). -/
  | fnEncode (payload : List Byte)
  /-- DECODE_STEP: internal (R112). -/
  | fnDecodeStep (data : Byte)
  /-- `sendAsync(payload)` (R91). -/
  | apiSendAsync (payload : List Byte)
  /-- `sendAndReceiveAsync(payload, replyBuffer, replyMaxLength, retryCount)`; `buffer` says whether a
  reply buffer is supplied (R91). -/
  | apiSendAndReceiveAsync (payload : List Byte) (buffer : Bool) (maxLength : Len) (retryCount : Byte)
  /-- `receiveAsync(buffer, maxLength)` (R91). -/
  | apiReceiveAsync (maxLength : Len)
  /-- `pollOnce()` (R91). -/
  | apiPollOnce
  /-- `getStatus()` (R91). -/
  | apiGetStatus
  /-- `receivedLength()` (R91). -/
  | apiReceivedLength
  /-- `sendAndReceiveSync(payload, replyBuffer, replyMaxLength, retryCount)` (R196). -/
  | apiSendAndReceiveSync (payload : List Byte) (buffer : Bool) (maxLength : Len) (retryCount : Byte)
  /-- `receiveAndReplySync(buffer, maxLength, replyHandler)` (R197); the handler is host code, its reply
  arrives as an input (log 15). -/
  | apiReceiveAndReplySync (maxLength : Len)
deriving DecidableEq, Repr

/-- The encoded formats in which an operation reaches the block (R70): a request word with its payload
list, an event word, the bytes of a frame. -/
inductive Encoded where
  | request (word : ReqWord) (payload : List Byte)
  | event (word : EvtWord)
  | wire (bytes : List Byte)
deriving DecidableEq, Repr

/-- What is presented at one step (R17, R37, R54, R196, R197). -/
inductive Stimulus where
  /-- A request, an event or a frame, in its encoding. -/
  | port (form : Encoded)
  /-- The transceiver delivers the oldest event it has produced (R37 (c), R219). -/
  | deliver
  /-- The host calls a facade operation by its name (R91, R92). -/
  | call (op : Instr)
  /-- The host carries out the next line of its innermost synchronous routine (R196, R197). -/
  | resume
  /-- The replyHandler of `receiveAndReplySync` returns this reply (R197). -/
  | handlerReply (payload : List Byte)
  /-- The host writes one byte of RXBUF (R54); 8-bit offsets (R52). -/
  | hostWrite (offset : Byte) (value : Byte)
deriving DecidableEq, Repr

/-- One input: what is presented and the tick value `now` sampled when the step begins (R17, R87). -/
structure Input where
  now : Tick
  what : Stimulus
deriving DecidableEq, Repr

end Sys2Proof
end

