-- ==== Sys2Proof/Decode.lean ====
section
/-! DEFINITION. Decoding of the encoded formats (30_encoding.md R70 to R83) and, after it, the encoder.
Decoding is total: every request word and every event word decodes, the reserved ones to their own
operations (R80, R83); what cannot be presented at all is refused by name. -/

namespace Sys2Proof

/-! ## Fields -/

/-- OP, bits 3:0 (R76). -/
def fieldOp (w : ReqWord) : BitVec 4 := w.extractLsb' 0 4

/-- EXPECT, bit 4 (R76). -/
def fieldExpect (w : ReqWord) : Bool := w.getLsbD 4

/-- RETRY, bits 15:8 (R76). -/
def fieldRetry (w : ReqWord) : Byte := w.extractLsb' 8 8

/-- LEN, bits 31:16 (R76). -/
def fieldLen (w : ReqWord) : Len := w.extractLsb' 16 16

/-- RXMAX, bits 47:32 (R76). -/
def fieldRxmax (w : ReqWord) : Len := w.extractLsb' 32 16

/-- DATA, bits 7:0 of an event word (R82). -/
def fieldData (w : EvtWord) : Byte := w.extractLsb' 0 8

/-! ## The selecting patterns -/

/-- The requests that have a row of their own in R78. -/
inductive RequestKind where
  | getStatus | send | recv | poll | getRxlen | crc8
deriving DecidableEq, Repr

/-- The events that have a row of their own in R82. -/
inductive EventKind where
  | txc | rxb | lerr
deriving DecidableEq, Repr

/-- One row of R78: a word is this request when `word AND mask = value`. -/
structure RequestRow where
  kind : RequestKind
  mask : ReqWord
  value : ReqWord
deriving DecidableEq, Repr

/-- One row of R82. -/
structure EventRow where
  kind : EventKind
  mask : EvtWord
  value : EvtWord
deriving DecidableEq, Repr

/-- The six rows of R78, mask and match as the rule prints them. -/
def requestRows : List RequestRow :=
  [ ⟨.getStatus, 0xFFFFFFFFFFFFFFFF, 0x0000000000000000⟩,
    ⟨.send, 0xFFFF0000000000EF, 0x0000000000000001⟩,
    ⟨.recv, 0xFFFF0000FFFFFFFF, 0x0000000000000002⟩,
    ⟨.poll, 0xFFFFFFFFFFFFFFFF, 0x0000000000000003⟩,
    ⟨.getRxlen, 0xFFFFFFFFFFFFFFFF, 0x0000000000000004⟩,
    ⟨.crc8, 0xFFFFFFFF0000FFFF, 0x0000000000000005⟩ ]

/-- The three rows of R82, mask and match as the rule prints them. -/
def eventRows : List EventRow :=
  [ ⟨.txc, 0xFFFF, 0x0100⟩,
    ⟨.rxb, 0xFF00, 0x0200⟩,
    ⟨.lerr, 0xFFFF, 0x0300⟩ ]

/-- Whether a request word matches a row (R78). -/
def RequestRow.selects (r : RequestRow) (w : ReqWord) : Bool := w &&& r.mask == r.value

/-- Whether an event word matches a row (R82). -/
def EventRow.selects (r : EventRow) (w : EvtWord) : Bool := w &&& r.mask == r.value

/-- The request a word is, none for a reserved word (R78, R80). -/
def requestKind (w : ReqWord) : Option RequestKind :=
  (requestRows.find? (fun r => r.selects w)).map RequestRow.kind

/-- The event a word is, none for a reserved word (R82, R83). -/
def eventKind (w : EvtWord) : Option EventKind :=
  (eventRows.find? (fun r => r.selects w)).map EventRow.kind

/-! ## Decoding -/

/-- Why an encoded form is refused. -/
inductive DecodeError where
  /-- The payload list has not the length the request word says, so the request cannot be presented
  (R77, R80). -/
  | payloadLength
  /-- The bytes are not one whole frame: no magic byte, no header, or a payload that has not the length
  of the length field (R71, R72). -/
  | notAFrame
deriving DecidableEq, Repr

/-- What decoding answers. -/
inductive Decoded where
  | instr (i : Instr)
  | bad (why : DecodeError)
deriving DecidableEq, Repr

/-- A request that takes no payload list is presented without one (R77). -/
def withoutPayload (i : Instr) (payload : List Byte) : Decoded :=
  if payload = [] then .instr i else .bad .payloadLength

/-- A request word with its payload list (R76 to R80). A reserved word is rejected whatever comes with it
(R80), so its list is not looked at (log 16). -/
def decodeRequest (w : ReqWord) (payload : List Byte) : Decoded :=
  match requestKind w with
  | none => .instr (.reqReserved w)
  | some .getStatus => withoutPayload .reqGetStatus payload
  | some .poll => withoutPayload .reqPoll payload
  | some .getRxlen => withoutPayload .reqGetRxlen payload
  | some .recv => withoutPayload (.reqRecv (fieldRxmax w)) payload
  | some .send =>
    if payload.length = (fieldLen w).toNat then
      .instr (.reqSend (fieldExpect w) (fieldRetry w) (fieldRxmax w) payload)
    else .bad .payloadLength
  | some .crc8 =>
    if payload.length = (fieldLen w).toNat then .instr (.reqCrc8 payload) else .bad .payloadLength

/-- An event word (R82, R83): every one decodes. -/
def decodeEvent (w : EvtWord) : Instr :=
  match eventKind w with
  | none => .evtReserved w
  | some .txc => .evtTxc
  | some .rxb => .evtRxb (fieldData w)
  | some .lerr => .evtLerr

/-- The bytes of one frame, `[0x55][length][crc][payload]` (R71, R72). -/
def decodeFrame : List Byte → Decoded
  | m :: len :: crc :: payload =>
    if m = Config.magic ∧ payload.length = len.toNat then .instr (.wireFrame crc payload)
    else .bad .notAFrame
  | _ => .bad .notAFrame

/-- Decoding, by the format the form arrives in (R70). -/
def decode : Encoded → Decoded
  | .request w payload => decodeRequest w payload
  | .event w => .instr (decodeEvent w)
  | .wire bytes => decodeFrame bytes

/-! ## The pseudo-operations (R91, R92) -/

/-- The pseudo-operations, which the host calls by name (R91, R92). -/
def Instr.isApi : Instr → Bool
  | .apiSendAsync _ => true
  | .apiSendAndReceiveAsync _ _ _ _ => true
  | .apiReceiveAsync _ => true
  | .apiPollOnce => true
  | .apiGetStatus => true
  | .apiReceivedLength => true
  | .apiSendAndReceiveSync _ _ _ _ => true
  | .apiReceiveAndReplySync _ => true
  | .reqGetStatus => false
  | .reqSend _ _ _ _ => false
  | .reqRecv _ => false
  | .reqPoll => false
  | .reqGetRxlen => false
  | .reqCrc8 _ => false
  | .reqReserved _ => false
  | .evtTxc => false
  | .evtRxb _ => false
  | .evtLerr => false
  | .evtReserved _ => false
  | .wireFrame _ _ => false
  | .fnCrc8Compute _ => false
  | .fnEncode _ => false
  | .fnDecodeStep _ => false

/-- The operation whose words an operation is written in: a one-request pseudo-operation stands for the
request it expands to (R91), any other operation for itself. -/
def Instr.core : Instr → Instr
  | .apiSendAsync p => .reqSend false 0 0 p
  | .apiSendAndReceiveAsync p buffer m r => .reqSend buffer r m p
  | .apiReceiveAsync m => .reqRecv m
  | .apiPollOnce => .reqPoll
  | .apiGetStatus => .reqGetStatus
  | .apiReceivedLength => .reqGetRxlen
  | .apiSendAndReceiveSync p buffer m r => .apiSendAndReceiveSync p buffer m r
  | .apiReceiveAndReplySync m => .apiReceiveAndReplySync m
  | .reqGetStatus => .reqGetStatus
  | .reqSend e r m p => .reqSend e r m p
  | .reqRecv m => .reqRecv m
  | .reqPoll => .reqPoll
  | .reqGetRxlen => .reqGetRxlen
  | .reqCrc8 p => .reqCrc8 p
  | .reqReserved w => .reqReserved w
  | .evtTxc => .evtTxc
  | .evtRxb b => .evtRxb b
  | .evtLerr => .evtLerr
  | .evtReserved w => .evtReserved w
  | .wireFrame c p => .wireFrame c p
  | .fnCrc8Compute d => .fnCrc8Compute d
  | .fnEncode p => .fnEncode p
  | .fnDecodeStep b => .fnDecodeStep b

/-! ## Encoding -/

/-- The request word of the fields of R76, ZERO_A and ZERO_B zero. -/
def requestWord (op : BitVec 4) (expect : Bool) (retry : Byte) (len rxmax : Len) : ReqWord :=
  0#16 ++ rxmax ++ len ++ retry ++ 0#3 ++ BitVec.ofBool expect ++ op

/-- The event word of the fields of R82, ZERO_E zero. -/
def eventWord (kind : BitVec 2) (data : Byte) : EvtWord := 0#6 ++ kind ++ data

/-- LEN of a payload list (R77). -/
def lenOf (payload : List Byte) : Len := BitVec.ofNat 16 payload.length

/-- The bytes of a frame on the wire (R71). -/
def frameBytes (crc : Byte) (payload : List Byte) : List Byte :=
  [Config.magic, BitVec.ofNat 8 payload.length, crc] ++ payload

/-- The encoding of an operation, none for those that have no encoding of their own (R93): the internal
functions and the two synchronous routines. -/
def encode : Instr → Option Encoded
  | .reqGetStatus => some (.request (requestWord 0x0 false 0 0 0) [])
  | .reqSend e r m p => some (.request (requestWord 0x1 e r (lenOf p) m) p)
  | .reqRecv m => some (.request (requestWord 0x2 false 0 0 m) [])
  | .reqPoll => some (.request (requestWord 0x3 false 0 0 0) [])
  | .reqGetRxlen => some (.request (requestWord 0x4 false 0 0 0) [])
  | .reqCrc8 p => some (.request (requestWord 0x5 false 0 (lenOf p) 0) p)
  | .reqReserved w => some (.request w [])
  | .evtTxc => some (.event (eventWord 1 0))
  | .evtRxb b => some (.event (eventWord 2 b))
  | .evtLerr => some (.event (eventWord 3 0))
  | .evtReserved w => some (.event w)
  | .wireFrame c p => some (.wire (frameBytes c p))
  | .fnCrc8Compute _ => none
  | .fnEncode _ => none
  | .fnDecodeStep _ => none
  | .apiSendAsync p => some (.request (requestWord 0x1 false 0 (lenOf p) 0) p)
  | .apiSendAndReceiveAsync p b m r => some (.request (requestWord 0x1 b r (lenOf p) m) p)
  | .apiReceiveAsync m => some (.request (requestWord 0x2 false 0 0 m) [])
  | .apiPollOnce => some (.request (requestWord 0x3 false 0 0 0) [])
  | .apiGetStatus => some (.request (requestWord 0x0 false 0 0 0) [])
  | .apiReceivedLength => some (.request (requestWord 0x4 false 0 0 0) [])
  | .apiSendAndReceiveSync _ _ _ _ => none
  | .apiReceiveAndReplySync _ => none

/-! ## The opcode table's numbering -/

/-- The payload list of zero bytes that a request word needs (R77). -/
def zeroPayload (w : ReqWord) : List Byte :=
  match requestKind w with
  | some .send => List.replicate (fieldLen w).toNat 0
  | some .crc8 => List.replicate (fieldLen w).toNat 0
  | some .getStatus => []
  | some .recv => []
  | some .poll => []
  | some .getRxlen => []
  | none => []

/-- The form that spec/opcode_table.json describes by a number of bits: 16 for an event word, 24 for the
header of a frame, which the table reads as one number with the magic in bits 23:16, 64 for a request
word. The payload that follows is all zero. A number of 17 to 24 bits whose bits 23:16 are not the magic
is an event word, which has 16 bits (log 19). -/
def tableForm (nbits w : Nat) : Encoded :=
  if nbits ≤ 16 then .event (BitVec.ofNat 16 w)
  else if nbits ≤ 24 then
    if BitVec.ofNat 8 (w / 65536) = Config.magic then
      .wire ([Config.magic, BitVec.ofNat 8 (w / 256), BitVec.ofNat 8 w]
        ++ List.replicate (BitVec.ofNat 8 (w / 256)).toNat 0)
    else .event (BitVec.ofNat 16 w)
  else .request (BitVec.ofNat 64 w) (zeroPayload (BitVec.ofNat 64 w))

/-- The instruction the decoder reads from a word numbered as spec/opcode_table.json numbers it. -/
def decodeTableWord (nbits w : Nat) : Option Instr :=
  match decode (tableForm nbits w) with
  | .instr i => some i
  | .bad _ => none

end Sys2Proof
end

