-- ==== Sys2Proof/Machine/State.lean ====
section
/-! DEFINITION. The state of the machine (10_state.md, 20_memory.md), its reset (R39, R240, R241), and
the reasons a step can stop. -/

namespace Sys2Proof.Machine

/-- PHASE, the link state machine's state (R22, R130). -/
inductive Phase where
  | idle | transmitting | receiving | receivedAwaitingCrc
deriving DecidableEq, Repr

/-- The statuses that `latch` stores in STATUS (R23, R214). `Busy` is never stored. -/
inductive Status where
  | ok | crcError | error | timeout
deriving DecidableEq, Repr

/-- The codes of the response word's CODE field (R85). -/
inductive Code where
  | ok | busy | crcError | error | timeout | invalidArgument | lengthError | illegalRequest
deriving DecidableEq, Repr

/-- The answer of DECODE_STEP (R34, R112). -/
inductive Answer where
  | cont | error | complete
deriving DecidableEq, Repr

/-- The output actions (R86). -/
inductive Action where
  | carrierStart | carrierStop | txStart (bytes : List Byte) | rxArm
deriving DecidableEq, Repr

/-- A byte memory: (address, byte) pairs in one canonical form, addresses strictly rising and no entry
equal to what an unlisted address reads as (Machine/Memory.lean; log 2). -/
abbrev Memory := List Host.Cell

/-- The block's own state: the LinkState record with the decoder registers and CARRIER, the staging
memory, and the receive buffer it writes to (R20, R17). -/
structure Block where
  /-- PHASE, 2 bits (R22). -/
  phase : Phase
  /-- STATUS, the latched terminal status, 3 bits (R23). -/
  status : Status
  /-- TX_LEN, the length field of the staged frame (R25). -/
  txLen : Byte
  /-- TX_CRC, the crc field of the staged frame (R25). -/
  txCrc : Byte
  /-- TXPAY, the payload of the staged frame, 256 bytes (R25, R51). -/
  txpay : Memory
  /-- RXV, receive buffer supplied (R26). -/
  rxv : Bool
  /-- RX_MAX, the maximum accepted receive length (R27). -/
  rxMax : Len
  /-- RX_CNT, the received-byte count, header included (R28). -/
  rxCnt : Count
  /-- RX_LEN, the length field of the frame being received (R29). -/
  rxLen : Byte
  /-- RX_CRC, the crc field of the frame being received (R30). -/
  rxCrc : Byte
  /-- RETRY, the remaining retransmission count (R31). -/
  retry : Byte
  /-- DEADLINE, the next timeout deadline (R32). -/
  deadline : Tick
  /-- CARRIER, the output register (R33). -/
  carrier : Bool
  /-- RXBUF, the caller's receive buffer, 256 bytes (R52). -/
  rxbuf : Memory
deriving DecidableEq, Repr

/-- The state outside the block that the model must carry (R37; log 10). -/
structure Environment where
  /-- The frames handed over by `TxStart` whose TXC has not been taken, oldest first (R37 (a)). -/
  sending : List (List Byte)
  /-- Whether a single-byte receive is armed (R37 (b)). -/
  armed : Bool
  /-- The event words produced and not yet delivered, oldest first (R37 (c)). -/
  pending : List EvtWord
  /-- The current tick of the clock (R37 (d), R87). -/
  tick : Tick
deriving DecidableEq, Repr

/-- The next line of a synchronous routine (R196, R197): `srs` lines are those of `sendAndReceiveSync`,
`rrs` lines those of `receiveAndReplySync`. -/
inductive Routine where
  /-- `sendAndReceiveSync`: POLL. -/
  | srsPoll
  /-- `sendAndReceiveSync`: GET_STATUS and the loop test. -/
  | srsStatus
  /-- `sendAndReceiveSync`: GET_RXLEN and the return. -/
  | srsLength
  /-- `receiveAndReplySync`: POLL of the reception. -/
  | rrsPoll
  /-- `receiveAndReplySync`: GET_STATUS of the reception and the loop test. -/
  | rrsStatus
  /-- `receiveAndReplySync`: GET_RXLEN. -/
  | rrsLength
  /-- `receiveAndReplySync`: the replyHandler is running on this received length. -/
  | rrsHandler (length : Byte)
  /-- `receiveAndReplySync`: POLL of the reply. -/
  | rrsReplyPoll
  /-- `receiveAndReplySync`: GET_STATUS of the reply, the loop test and the return. -/
  | rrsReplyStatus
deriving DecidableEq, Repr

/-- What a synchronous routine returns (R196, R197): success, with the length that `sendAndReceiveSync`
adds, or failure with a code of the response word. -/
inductive CallResult where
  | success (length : Option Byte)
  | failure (code : BitVec 3)
deriving DecidableEq, Repr

/-- The host's synchronous routines (R7, R196, R197; log 15). -/
structure HostSide where
  /-- The routines being carried out, innermost first, each at its next line. -/
  calls : List Routine
  /-- What the routine that finished last returned. -/
  result : Option CallResult
deriving DecidableEq, Repr

/-- The answer of an internal function run by itself (R101, R111, R112; log 13). -/
inductive InternalAnswer where
  | crc (value : Byte)
  | frame (bytes : List Byte)
  | decoder (answer : Answer)
deriving DecidableEq, Repr

/-- The output of one step (R17; log 18). -/
structure Output where
  /-- The response word, for a request (R84). -/
  resp : Option RespWord
  /-- The output actions in the order they are emitted (R86). -/
  actions : List Action
  /-- The answer of an internal function run by itself. -/
  internal : Option InternalAnswer
deriving DecidableEq, Repr

/-- The machine's state: the configuration, the block, its environment, the host's routines, the inputs
still to be presented and the output of the last step. -/
structure State where
  /-- CRC_TABLE and BYTE_TIMEOUT (R10); no step writes it. -/
  params : Parameters
  block : Block
  env : Environment
  host : HostSide
  /-- The counter of free GET_RXLEN values drawn so far (R190; log 4). -/
  draws : Nat
  /-- The inputs still to be presented, the next one first (R17; log 6). -/
  inputs : List Input
  /-- The output of the last step (R17). -/
  out : Output
deriving DecidableEq, Repr

/-- A step that stops with a fault. -/
inductive Fault where
  /-- Raised by ENCODE run by itself on more than 255 bytes: `encode` "fails" there and the rules give it
  no result (R123). Safe: the block never runs ENCODE outside its precondition. -/
  | encodeTooLong
deriving DecidableEq, Repr

/-- A step that is refused: the run leaves the spec. -/
inductive Refusal where
  /-- Raised by `exec` for an instruction with no meaning. Safe. No arm uses it. -/
  | notModelled (mnemonic : String)
  /-- Raised by a step that would set a deadline of `2^32` or more (R163, R260). Safe: the spec says the
  model refuses it. -/
  | deadlineOutOfRange
  /-- Raised by `step` for an input whose tick is below the tick of an earlier one (R87; U5). Safe: the
  spec says the model refuses it. -/
  | tickDecreases
  /-- Raised by `step` when the host writes RXBUF while an operation is in flight (R54; U8). Safe: the spec
  says the model refuses it. -/
  | rxbufInUse
  /-- Raised by `step` for a payload list that has not the length the request word says, which cannot be
  presented (R77, R80). Safe. -/
  | payloadLength
  /-- Raised by `step` for bytes presented as one frame that are none (R71). Safe: the same bytes can be
  presented one by one as RXB events. -/
  | notAFrame
  /-- Raised by `step` for a call by name of an operation that is no facade operation, or of one whose
  payload has 65536 bytes or more, which LEN cannot hold (R77, R91, R92). Safe. -/
  | notAFacadeCall
  /-- Raised by `step` for a handler's reply when no replyHandler is running (R197). Safe. -/
  | noHandlerRunning
deriving DecidableEq, Repr

/-- An output with nothing in it. -/
def Output.empty : Output := ⟨none, [], none⟩

/-- The values that reset leaves unspecified (R39, R241): one draw of each. -/
structure ResetDraw where
  status : Status
  txLen : Byte
  txCrc : Byte
  txpay : Memory
  rxv : Bool
  rxMax : Len
  rxCnt : Count
  rxLen : Byte
  rxCrc : Byte
  retry : Byte
  deadline : Tick
  rxbuf : Memory
deriving DecidableEq, Repr

/-- The machine after reset (R39, R240) with configuration `p` and the draw `d` for every register the
spec leaves unspecified (R241). -/
def State.resetWith (p : Parameters) (d : ResetDraw) : State where
  params := p
  block :=
    { phase := .idle, status := d.status, txLen := d.txLen, txCrc := d.txCrc, txpay := d.txpay,
      rxv := d.rxv, rxMax := d.rxMax, rxCnt := d.rxCnt, rxLen := d.rxLen, rxCrc := d.rxCrc,
      retry := d.retry, deadline := d.deadline, carrier := false, rxbuf := d.rxbuf }
  env := { sending := [], armed := false, pending := [], tick := 0 }
  host := { calls := [], result := none }
  draws := 0
  inputs := []
  out := Output.empty

/-- The draw that `State.reset` names, one value for every run: STATUS `Ok`, every other unspecified
register zero, nothing listed in the memories (DESIGN CHOICE, log 1). -/
def ResetDraw.chosen : ResetDraw where
  status := .ok
  txLen := 0
  txCrc := 0
  txpay := []
  rxv := false
  rxMax := 0
  rxCnt := 0
  rxLen := 0
  rxCrc := 0
  retry := 0
  deadline := 0
  rxbuf := []

/-- The machine right after reset (R39, R240; log 1, log 3). -/
def State.reset : State := State.resetWith Config.parameters ResetDraw.chosen

end Sys2Proof.Machine
end

