-- ==== Sys2Proof/Machine/Flags.lean ====
section
/-! DEFINITION. The numeric codes (R22, R23, R85), the response word (R84), and the conditions the block
derives from its registers: the reported status (R24), the validity of GET_RXLEN (R190) and the elapsed
test (R165). -/

namespace Sys2Proof.Machine

/-- The code of a phase (R22, D5). -/
def Phase.bits : Phase → BitVec 2
  | .idle => 0
  | .transmitting => 1
  | .receiving => 2
  | .receivedAwaitingCrc => 3

/-- The code of a stored status as a code of the response word (R85). -/
def Status.code : Status → Code
  | .ok => .ok
  | .crcError => .crcError
  | .error => .error
  | .timeout => .timeout

/-- The number of a code (R85, D6). -/
def Code.bits : Code → BitVec 3
  | .ok => 0
  | .busy => 1
  | .crcError => 2
  | .error => 3
  | .timeout => 4
  | .invalidArgument => 5
  | .lengthError => 6
  | .illegalRequest => 7

/-- The response word of R84: CODE 2:0, REJ 3, ZERO_R 7:4, VALUE 15:8. -/
def responseWord (rej : Bool) (code : Code) (value : Byte) : RespWord :=
  value ++ 0#4 ++ BitVec.ofBool rej ++ code.bits

/-- CODE of a response word (R84). -/
def respCode (w : RespWord) : BitVec 3 := w.extractLsb' 0 3

/-- REJ of a response word (R84). -/
def respRej (w : RespWord) : Bool := w.getLsbD 3

/-- VALUE of a response word (R84). -/
def respValue (w : RespWord) : Byte := w.extractLsb' 8 8

/-- `reported(s)`: `Busy` if `PHASE != Idle`, else STATUS (R24). -/
def reported (k : Block) : Code := if k.phase = .idle then k.status.code else .busy

/-- When GET_RXLEN is valid (R190). DESIGN CHOICE, unsafe (log 22): the formula is taken as it stands before
the first operation too, where a reset draw of STATUS `Ok` or `CrcError` with RXV = 1 makes it valid; R26
calls its value unspecified there, and U4, R39's row of RX_LEN and the trace of 95_test_vectors.md call every
GET_RXLEN there not valid. -/
def rxlenValid (k : Block) : Bool :=
  decide (k.phase = .idle) && (decide (k.status = .ok) || decide (k.status = .crcError)) && k.rxv

/-- `elapsed(now, DEADLINE)`: `now > DEADLINE`, unsigned and strict (R165, D4). -/
def elapsed (now deadline : Tick) : Bool := decide (deadline < now)

end Sys2Proof.Machine
end

