-- ==== Sys2Proof/Machine/Memory.lean ====
section
/-! DEFINITION. The byte memories TXPAY and RXBUF (20_memory.md R50 to R52): `MemRead` and `MemWrite`
of R15 over the canonical list form. -/

namespace Sys2Proof.Machine

/-- What an address that nothing has written reads as (DESIGN CHOICE, log 2; the spec gives no contents,
R39). -/
def Memory.blank : Byte := 0

/-- `MemRead(space, a, 1)` (R15). -/
def Memory.read (m : Memory) (a : Nat) : Byte :=
  match m with
  | [] => Memory.blank
  | (k, v) :: rest => if k = a then v else Memory.read rest a

/-- `MemWrite(space, a, 1, v)` (R15); it keeps the canonical form. -/
def Memory.write (m : Memory) (a : Nat) (v : Byte) : Memory :=
  match m with
  | [] => if v = Memory.blank then [] else [(a, v)]
  | (k, x) :: rest =>
    if a < k then (if v = Memory.blank then (k, x) :: rest else (a, v) :: (k, x) :: rest)
    else if a = k then (if v = Memory.blank then rest else (a, v) :: rest)
    else (k, x) :: Memory.write rest a v

/-- The bytes `P[0], P[1], …` written at `a`, `a + 1`, … in this order (R51, R111). -/
def Memory.writeList (m : Memory) (a : Nat) : List Byte → Memory
  | [] => m
  | b :: rest => Memory.writeList (Memory.write m a b) (a + 1) rest

/-- The list `space[0 .. n)` of R15, in ascending order. -/
def Memory.slice (m : Memory) (n : Nat) : List Byte := (List.range n).map (Memory.read m)

/-- The canonical form of a list whose addresses are all at least `lo`: strictly rising, inside the 256
bytes of the space (R51, R52), no entry blank. -/
def Memory.wfFrom (lo : Nat) : Memory → Bool
  | [] => true
  | (k, v) :: rest =>
    decide (lo ≤ k) && decide (k < Config.spaceSize) && decide (v ≠ Memory.blank)
      && Memory.wfFrom (k + 1) rest

/-- The canonical form of a memory. -/
def Memory.wf (m : Memory) : Bool := Memory.wfFrom 0 m

end Sys2Proof.Machine
end

