-- ==== Sys2Proof/Machine/Operands.lean ====
section
/-! DEFINITION. How operands become values (R88): the deadline sum, the RXBUF offset of a payload byte, the
staged frame, and the CRC engine's fold (40_crc_engine.md). -/

namespace Sys2Proof.Machine

/-- `now + BYTE_TIMEOUT` over the naturals, none where it does not fit `TICKW` bits (R163). -/
def deadlineFor (now timeout : Tick) : Option Tick :=
  if now.toNat + timeout.toNat < 2 ^ 32 then some (now + timeout) else none

/-- The RXBUF offset of the next payload byte, `RX_CNT - 3` (R88, R117). -/
def payloadOffset (k : Block) : Nat := k.rxCnt.toNat - Config.hdrLen

/-- The accumulator after one byte: `CRC_TABLE[acc XOR b]` (R101). -/
def crcByte (table : Vector Byte 256) (acc b : Byte) : Byte := table.get (acc ^^^ b).toFin

/-- `CRC8(D)`: the fold of R101 from the initial value 0xFF. -/
def crc8 (table : Vector Byte 256) (data : List Byte) : Byte :=
  data.foldl (crcByte table) Config.crcInit

/-- The payload of the staged frame, `TXPAY[0 .. TX_LEN)` (R25). -/
def stagedPayload (k : Block) : List Byte := Memory.slice k.txpay k.txLen.toNat

/-- `staged(s)`, the frame the block hands to the transceiver (R25). -/
def staged (k : Block) : List Byte := [Config.magic, k.txLen, k.txCrc] ++ stagedPayload k

/-- The received payload, `RXBUF[0 .. RX_LEN)` (R170). -/
def receivedPayload (k : Block) : List Byte := Memory.slice k.rxbuf k.rxLen.toNat

end Sys2Proof.Machine
end

