-- ==== Sys2Proof/Machine/Ops.lean ====
section
/-! DEFINITION. The shared operations of the block: the outcome primitives of R16 (`latch`, the block's
trap entry R223, `reject`, `respond`, `emit`), the packet framer (41_packet_codec.md), the retry/timeout
unit (43_retry_timeout.md) and the bodies of the requests and events. There is no return from a latch
(R224). -/

namespace Sys2Proof.Machine

/-- What a step answers. -/
abbrev Result := Host.Outcome State Fault Refusal

/-- Goes on with `f` where `r` is a next state. -/
def thenState (r : Result) (f : State → State) : Result :=
  match r with
  | .next s => .next (f s)
  | .fault e => .fault e
  | .refused e => .refused e

/-! ## Outcome primitives (R16) -/

/-- The state with the output of an earlier step cleared: each step has its own output (R17). -/
def quiet (s : State) : State := { s with out := Output.empty }

/-- `latch(s)`: `STATUS <- s; PHASE <- Idle` and nothing else (R16, R223). -/
def latch (st : Status) (s : State) : State :=
  { s with block := { s.block with status := st, phase := .idle } }

/-- `respond(code, value)` (R16, R84). -/
def respond (c : Code) (v : Byte) (s : State) : State :=
  { s with out := { s.out with resp := some (responseWord false c v) } }

/-- `reject(c)`: no state change, no output action, `REJ = 1, CODE = c`, VALUE 0 (R16, R212). -/
def reject (c : Code) (s : State) : State :=
  { s with out := ⟨some (responseWord true c 0#8), [], none⟩ }

/-- Appends an output action to the step's list (R16). -/
def pushAction (a : Action) (s : State) : State :=
  { s with out := { s.out with actions := s.out.actions ++ [a] } }

/-- `emit(CarrierStart); CARRIER <- 1` (R86). -/
def emitCarrierStart (s : State) : State :=
  pushAction .carrierStart { s with block := { s.block with carrier := true } }

/-- `emit(CarrierStop); CARRIER <- 0` (R86). -/
def emitCarrierStop (s : State) : State :=
  pushAction .carrierStop { s with block := { s.block with carrier := false } }

/-- `emit(TxStart(bytes))`: the transceiver now owes a TXC for these bytes (R86, R37 (a)). -/
def emitTxStart (bytes : List Byte) (s : State) : State :=
  pushAction (.txStart bytes) { s with env := { s.env with sending := s.env.sending ++ [bytes] } }

/-- `emit(RxArm)`: a single-byte receive is now armed (R86, R37 (b)). -/
def emitRxArm (s : State) : State :=
  pushAction .rxArm { s with env := { s.env with armed := true } }

/-- The environment after a TXC was taken: the oldest frame handed over is no longer being sent
(R37 (a), R226). -/
def takeTxDone (s : State) : State :=
  { s with env := { s.env with sending := s.env.sending.tail } }

/-- The environment after an RXB or LERR was taken: the receive is no longer armed (R37 (b), R226). -/
def takeReceived (s : State) : State := { s with env := { s.env with armed := false } }

/-! ## The packet framer (41_packet_codec.md) -/

/-- ENCODE: TX_LEN, TX_CRC and TXPAY from a payload of at most 255 bytes (R111). -/
def encodeFrame (table : Vector Byte 256) (payload : List Byte) (k : Block) : Block :=
  { k with
    txLen := BitVec.ofNat 8 payload.length
    txCrc := crc8 table payload
    txpay := Memory.writeList k.txpay 0 payload }

/-- DECODE_STEP: the answer and the decoder's writes (R112 to R118). In the unreachable case
`RX_CNT >= 3 + RX_LEN` it answers `error` and writes nothing (R118, D21). -/
def decodeStep (b : Byte) (k : Block) : Answer × Block :=
  if k.rxCnt = 0#9 then
    (.cont, if b = Config.magic then { k with rxCnt := 1#9 } else k)
  else if k.rxCnt = 1#9 then
    if k.rxMax < b.setWidth 16 then (.error, k)
    else (.cont, { k with rxLen := b, rxCnt := 2#9 })
  else if k.rxCnt = 2#9 then
    (if k.rxLen = 0#8 then .complete else .cont, { k with rxCrc := b, rxCnt := 3#9 })
  else if k.rxCnt.toNat < Config.hdrLen + k.rxLen.toNat then
    (if k.rxCnt.toNat + 1 = Config.hdrLen + k.rxLen.toNat then .complete else .cont,
      { k with rxbuf := Memory.write k.rxbuf (payloadOffset k) b, rxCnt := k.rxCnt + 1#9 })
  else (.error, k)

/-- DECODE over the bytes of a list (R120): DECODE_STEP on each in order, up to the first answer other
than `cont` or the end of the list; the last answer, the block it leaves, and the bytes not consumed. -/
def decodeBytes : List Byte → Block → Answer × Block × List Byte
  | [], k => (.cont, k, [])
  | b :: rest, k =>
    match (decodeStep b k).1 with
    | .cont => decodeBytes rest (decodeStep b k).2
    | .error => (.error, (decodeStep b k).2, rest)
    | .complete => (.complete, (decodeStep b k).2, rest)

/-! ## The retry/timeout unit (43_retry_timeout.md) -/

/-- `refresh_deadline(now)`: `DEADLINE <- now + BYTE_TIMEOUT` (R162); a sum of `2^32` or more is refused
(R163, log 8). `now` is the tick of the step. -/
def refreshDeadline (s : State) : Result :=
  match deadlineFor s.env.tick s.params.byteTimeout with
  | some d => .next { s with block := { s.block with deadline := d } }
  | none => .refused .deadlineOutOfRange

/-- `arm_reception(now)` (R134). -/
def armReception (s : State) : Result :=
  thenState (refreshDeadline { s with block := { s.block with rxCnt := 0#9 } }) emitRxArm

/-- The retransmission (R167): the staged frame goes out again, byte for byte. -/
def retransmit (s : State) : State :=
  emitTxStart (staged s.block)
    (emitCarrierStart
      { s with block := { s.block with retry := s.block.retry - 1#8, phase := .transmitting } })

/-- The deferred CRC check (R170). -/
def crcCheck (s : State) : State :=
  if crc8 s.params.crcTable (receivedPayload s.block) = s.block.rxCrc then latch .ok s
  else latch .crcError s

/-- What POLL does to the block, by phase (R164 and the rules of its branches). -/
def pollBlock (s : State) : State :=
  match s.block.phase with
  | .idle => s
  | .transmitting => s
  | .receiving =>
    if elapsed s.env.tick s.block.deadline = false then s
    else if s.block.retry = 0#8 then latch .timeout s
    else retransmit s
  | .receivedAwaitingCrc => crcCheck s

/-! ## The bodies of the requests (44_facade_requests.md, 43_retry_timeout.md, 40_crc_engine.md) -/

/-- GET_STATUS (R189). -/
def readStatus (s : State) : State := respond (reported s.block) 0#8 (quiet s)

/-- POLL (R164): always answered `REJ = 0, CODE = 0, VALUE = 0`. -/
def poll (s : State) : State := respond .ok 0#8 (pollBlock (quiet s))

/-- GET_RXLEN (R190). When it is not valid the VALUE is a free value, one for each draw (log 4); the test is
the same before the first operation (log 22). -/
def readRxlen (s : State) : State :=
  if rxlenValid s.block then respond .ok s.block.rxLen (quiet s)
  else respond .ok (Config.freeRxlen s.draws) { quiet s with draws := s.draws + 1 }

/-- The request CRC8, in every phase: VALUE = CRC8(P) (R103), and `reject(LengthError)` for LEN above 255 (D26).
DEDUCED, unsafe: the words of R103, R211 and R212 have no such rejection; the ruling D26 is followed (log 5). -/
def crcRequest (payload : List Byte) (s : State) : State :=
  if Config.maxLen < payload.length then reject .lengthError s
  else respond .ok (crc8 s.params.crcTable payload) (quiet s)

/-- The precondition checks of SEND, in the order of R182: the code of the first that fails. -/
def sendReason (expect : Bool) (retry : Byte) (payload : List Byte) (k : Block) : Option Code :=
  if k.phase ≠ .idle then some .busy
  else if expect = false ∧ retry ≠ 0#8 then some .invalidArgument
  else if Config.maxLen < payload.length then some .lengthError
  else none

/-- The effects of an accepted SEND (R183). -/
def sendEffects (expect : Bool) (retry : Byte) (rxmax : Len) (payload : List Byte) (s : State) :
    State :=
  let s := { s with block := encodeFrame s.params.crcTable payload s.block }
  let s := { s with
    block := { s.block with rxv := expect, rxMax := rxmax, retry := retry, phase := .transmitting } }
  let s := emitCarrierStart s
  emitTxStart ([Config.magic, s.block.txLen, s.block.txCrc] ++ payload) s

/-- SEND (R181). -/
def startSend (expect : Bool) (retry : Byte) (rxmax : Len) (payload : List Byte) (s : State) : State :=
  match sendReason expect retry payload s.block with
  | some c => reject c s
  | none => respond .ok 0#8 (sendEffects expect retry rxmax payload (quiet s))

/-- RECV (R185, R186). -/
def startRecv (rxmax : Len) (s : State) : Result :=
  if s.block.phase ≠ .idle then .next (reject .busy s)
  else
    let s := quiet s
    thenState
      (armReception { s with
        block := { s.block with rxv := true, rxMax := rxmax, retry := 0#8, phase := .receiving } })
      (respond .ok 0#8)

/-! ## The bodies of the events (42_link_state_machine.md) -/

/-- TXC (R133). Outside `Transmitting` it changes nothing of the block (R141). -/
def txDone (s : State) : Result :=
  let s := takeTxDone (quiet s)
  if s.block.phase = .transmitting then
    let s := emitCarrierStop s
    if s.block.rxv then armReception { s with block := { s.block with phase := .receiving } }
    else .next (latch .ok s)
  else .next s

/-- What the link state machine does with the decoder's answer (R137). -/
def afterDecode (r : Answer) (s : State) : Result :=
  match r with
  | .cont => thenState (refreshDeadline s) emitRxArm
  | .error => .next (latch .error s)
  | .complete => .next { s with block := { s.block with phase := .receivedAwaitingCrc } }

/-- RXB (R136). Outside `Receiving` it changes nothing of the block (R141). -/
def byteReceived (b : Byte) (s : State) : Result :=
  let s := takeReceived (quiet s)
  if s.block.phase = .receiving then
    afterDecode (decodeStep b s.block).1 { s with block := (decodeStep b s.block).2 }
  else .next s

/-- LERR (R139). In `Idle` it changes nothing of the block (R141). -/
def lineFault (s : State) : State :=
  let s := takeReceived (quiet s)
  if s.block.phase = .idle then s else latch .error s

end Sys2Proof.Machine
end

