-- ==== Sys2Proof/Machine/Events.lean ====
section
/-! DEFINITION. The meanings of the transceiver's events (R82): TXC, RXB, LERR and the reserved event
words. An event has no response word (R81). -/

namespace Sys2Proof.Machine

/-- TXC (R133 to R135). -/
def execEvtTxc (s : State) : Result := txDone s

/-- RXB (R136 to R138). -/
def execEvtRxb (data : Byte) (s : State) : Result := byteReceived data s

/-- LERR (R139, R140). -/
def execEvtLerr (s : State) : Result := .next (lineFault s)

/-- A reserved event word is ignored, whatever the word (R83). -/
def execEvtReserved (_word : EvtWord) (s : State) : Result := .next (quiet s)

end Sys2Proof.Machine
end

