-- ==== Sys2Proof/Machine/Facade.lean ====
section
/-! DEFINITION. The pseudo-operations of the source's facade (R91, R92): the asynchronous ones are one
request each; the two synchronous ones are host routines, carried out line by line as the expansions of
R196 and R197 give them (log 14, log 15). -/

namespace Sys2Proof.Machine

/-! ## One request each (R91) -/

/-- `sendAsync(payload)` is SEND with expect 0, rxmax 0, retry 0 (R91). -/
def execApiSendAsync (payload : List Byte) (s : State) : Result :=
  .next (startSend false 0 0 payload s)

/-- `sendAndReceiveAsync(payload, replyBuffer, replyMaxLength, retryCount)` (R91). -/
def execApiSendAndReceiveAsync (payload : List Byte) (buffer : Bool) (maxLength : Len)
    (retryCount : Byte) (s : State) : Result :=
  .next (startSend buffer retryCount maxLength payload s)

/-- `receiveAsync(buffer, maxLength)` is RECV (R91). -/
def execApiReceiveAsync (maxLength : Len) (s : State) : Result := startRecv maxLength s

/-- `pollOnce()` is POLL (R91). -/
def execApiPollOnce (s : State) : Result := .next (poll s)

/-- `getStatus()` is GET_STATUS (R91). -/
def execApiGetStatus (s : State) : Result := .next (readStatus s)

/-- `receivedLength()` is GET_RXLEN (R91). -/
def execApiReceivedLength (s : State) : Result := .next (readRxlen s)

/-! ## Sequences of requests (R92, R196, R197) -/

/-- The response word of the step just taken. -/
def answered (s : State) : RespWord := s.out.resp.getD 0

/-- The innermost routine goes on at line `line`. -/
def atLine (line : Routine) (s : State) : State :=
  { s with host := { s.host with calls := line :: s.host.calls.tail } }

/-- The innermost routine returns `r`. -/
def returns (r : CallResult) (s : State) : State := { s with host := ⟨s.host.calls.tail, some r⟩ }

/-- The innermost routine after a starting request: it returns failure with the rejection code, or goes on
(R196, R197: `if r.REJ = 1: return failure(r.CODE)`). -/
def afterStart (line : Routine) (s : State) : State :=
  if respRej (answered s) then returns (.failure (respCode (answered s))) s else atLine line s

/-- A routine is entered: its place on top of those being carried out, filled in by `afterStart`. -/
def enter (line : Routine) (s : State) : State :=
  { s with host := { s.host with calls := line :: s.host.calls } }

/-- The loop test after GET_STATUS: once more from `again` while `Busy`, else `onOk` after `Ok` and
failure with the status after any other (R196, R197). -/
def afterStatus (again : Routine) (onOk : State → State) (s : State) : State :=
  if respCode (answered s) = Code.busy.bits then atLine again s
  else if respCode (answered s) = Code.ok.bits then onOk s
  else returns (.failure (respCode (answered s))) s

/-- `sendAndReceiveSync` (R196): its first line, the SEND; the lines after it are carried out by
`resume`. -/
def execApiSendAndReceiveSync (payload : List Byte) (buffer : Bool) (maxLength : Len)
    (retryCount : Byte) (s : State) : Result :=
  .next (afterStart .srsPoll (startSend buffer retryCount maxLength payload (enter .srsPoll s)))

/-- `receiveAndReplySync` (R197): its first line, the RECV; the lines after it are carried out by
`resume` and `handlerReplies`. -/
def execApiReceiveAndReplySync (maxLength : Len) (s : State) : Result :=
  thenState (startRecv maxLength (enter .rrsPoll s)) (afterStart .rrsPoll)

/-- The next line of a routine (R196, R197), each line one step of the block. While the replyHandler runs
no request is made. -/
def routineLine (line : Routine) (s : State) : State :=
  match line with
  | .srsPoll => atLine .srsStatus (poll s)
  | .srsStatus => afterStatus .srsPoll (atLine .srsLength) (readStatus s)
  | .srsLength => let t := readRxlen s; returns (.success (some (respValue (answered t)))) t
  | .rrsPoll => atLine .rrsStatus (poll s)
  | .rrsStatus => afterStatus .rrsPoll (atLine .rrsLength) (readStatus s)
  | .rrsLength => let t := readRxlen s; atLine (.rrsHandler (respValue (answered t))) t
  | .rrsHandler _ => quiet s
  | .rrsReplyPoll => atLine .rrsReplyStatus (poll s)
  | .rrsReplyStatus => afterStatus .rrsReplyPoll (returns (.success none)) (readStatus s)

/-- The host carries out the next line of its innermost routine; with no routine it makes no request. -/
def resume (s : State) : State :=
  match s.host.calls with
  | [] => quiet s
  | line :: _ => routineLine line s

/-- The replyHandler of the innermost routine returns `payload`, and the routine makes the SEND of the
reply (R197). A reply when no handler is running is refused (log 15). -/
def handlerReplies (payload : List Byte) (s : State) : Result :=
  match s.host.calls with
  | .rrsHandler _ :: _ => .next (afterStart .rrsReplyPoll (startSend false 0 0 payload s))
  | _ => .refused .noHandlerRunning

end Sys2Proof.Machine
end

