-- ==== Sys2Proof/Machine/Internal.lean ====
section
/-! DEFINITION. The internal functions (R93) run by themselves: the effect the rules give them on the
block, their answer in `out.internal` (log 13). No input of `step` reaches them; they run inside SEND,
POLL, CRC8 and RXB. -/

namespace Sys2Proof.Machine

/-- CRC8 compute (R101): no state is written. -/
def execFnCrc8Compute (data : List Byte) (s : State) : Result :=
  .next { s with out := ⟨none, [], some (.crc (crc8 s.params.crcTable data))⟩ }

/-- ENCODE (R111); outside its precondition it fails (R123). -/
def execFnEncode (payload : List Byte) (s : State) : Result :=
  if payload.length ≤ Config.maxLen then
    .next { s with
      block := encodeFrame s.params.crcTable payload s.block
      out := ⟨none, [], some (.frame (staged (encodeFrame s.params.crcTable payload s.block)))⟩ }
  else .fault .encodeTooLong

/-- DECODE_STEP (R112 to R118). -/
def execFnDecodeStep (data : Byte) (s : State) : Result :=
  .next { s with
    block := (decodeStep data s.block).2
    out := ⟨none, [], some (.decoder (decodeStep data s.block).1)⟩ }

end Sys2Proof.Machine
end

