-- ==== Sys2Proof/Machine/Requests.lean ====
section
/-! DEFINITION. The meanings of the requests (R78): GET_STATUS, SEND, RECV, POLL, GET_RXLEN, CRC8 and the
reserved request words. `now` is the tick of the step, `env.tick`. -/

namespace Sys2Proof.Machine

/-- GET_STATUS (R189). -/
def execReqGetStatus (s : State) : Result := .next (readStatus s)

/-- SEND (R181 to R184). -/
def execReqSend (expect : Bool) (retry : Byte) (rxmax : Len) (payload : List Byte) (s : State) : Result :=
  .next (startSend expect retry rxmax payload s)

/-- RECV (R185 to R187). -/
def execReqRecv (rxmax : Len) (s : State) : Result := startRecv rxmax s

/-- POLL (R164 to R171). -/
def execReqPoll (s : State) : Result := .next (poll s)

/-- GET_RXLEN (R190). -/
def execReqGetRxlen (s : State) : Result := .next (readRxlen s)

/-- CRC8 (R103, D26). -/
def execReqCrc8 (payload : List Byte) (s : State) : Result := .next (crcRequest payload s)

/-- A reserved request word: `reject(IllegalRequest)` in every phase, whatever the word (R80). -/
def execReqReserved (_word : ReqWord) (s : State) : Result := .next (reject .illegalRequest s)

end Sys2Proof.Machine
end

