-- ==== Sys2Proof/Machine/Wire.lean ====
section
/-! DEFINITION. The wire frame (R71) as an operation: a frame arriving on the receive line (log 12). -/

namespace Sys2Proof.Machine

/-- FRAME: its bytes arrive on the line in wire order (R55, R56), so the transceiver has one RXB event for
each of them to deliver, in this order (R37 (c), R226). The block itself takes them one by one, by the RXB
steps that follow. -/
def execWireFrame (crc : Byte) (payload : List Byte) (s : State) : Result :=
  let s := quiet s
  .next { s with
    env := { s.env with pending := s.env.pending ++ (frameBytes crc payload).map (eventWord 2) } }

end Sys2Proof.Machine
end

