-- ==== Sys2Proof/Machine/Dispatch.lean ====
section
/-! DEFINITION. One arm per operation, each a direct call of its meaning. -/

namespace Sys2Proof.Machine

def exec (i : Instr) (s : State) : Host.Outcome State Fault Refusal :=
  match i with
  | .reqGetStatus => Sys2Proof.Machine.execReqGetStatus s
  | .reqSend e r m p => Sys2Proof.Machine.execReqSend e r m p s
  | .reqRecv m => Sys2Proof.Machine.execReqRecv m s
  | .reqPoll => Sys2Proof.Machine.execReqPoll s
  | .reqGetRxlen => Sys2Proof.Machine.execReqGetRxlen s
  | .reqCrc8 p => Sys2Proof.Machine.execReqCrc8 p s
  | .reqReserved w => Sys2Proof.Machine.execReqReserved w s
  | .evtTxc => Sys2Proof.Machine.execEvtTxc s
  | .evtRxb b => Sys2Proof.Machine.execEvtRxb b s
  | .evtLerr => Sys2Proof.Machine.execEvtLerr s
  | .evtReserved w => Sys2Proof.Machine.execEvtReserved w s
  | .wireFrame c p => Sys2Proof.Machine.execWireFrame c p s
  | .fnCrc8Compute d => Sys2Proof.Machine.execFnCrc8Compute d s
  | .fnEncode p => Sys2Proof.Machine.execFnEncode p s
  | .fnDecodeStep b => Sys2Proof.Machine.execFnDecodeStep b s
  | .apiSendAsync p => Sys2Proof.Machine.execApiSendAsync p s
  | .apiSendAndReceiveAsync p b m r => Sys2Proof.Machine.execApiSendAndReceiveAsync p b m r s
  | .apiReceiveAsync m => Sys2Proof.Machine.execApiReceiveAsync m s
  | .apiPollOnce => Sys2Proof.Machine.execApiPollOnce s
  | .apiGetStatus => Sys2Proof.Machine.execApiGetStatus s
  | .apiReceivedLength => Sys2Proof.Machine.execApiReceivedLength s
  | .apiSendAndReceiveSync p b m r => Sys2Proof.Machine.execApiSendAndReceiveSync p b m r s
  | .apiReceiveAndReplySync m => Sys2Proof.Machine.execApiReceiveAndReplySync m s

end Sys2Proof.Machine
end

