-- ==== Sys2Proof/WellFormed.lean ====
section
/-! DEFINITION. Which operations can be written in the encodings of 30_encoding.md: the checks that
Syntax leaves to a predicate. -/

namespace Sys2Proof

/-- A payload whose length the 16-bit LEN field can hold (R76, R77). -/
def payloadFits (payload : List Byte) : Bool := decide (payload.length < 2 ^ 16)

/-- A payload that a frame can carry (R71: the length field is one byte). -/
def payloadFramed (payload : List Byte) : Bool := decide (payload.length ≤ Config.maxLen)

/-- Well-formed operations: a payload list fits the LEN field (R77) or, where a frame is meant, the length
byte (R71, R111); a reserved word matches no row (R80, R83). -/
def Instr.wf : Instr → Bool
  | .reqGetStatus => true
  | .reqSend _ _ _ p => payloadFits p
  | .reqRecv _ => true
  | .reqPoll => true
  | .reqGetRxlen => true
  | .reqCrc8 p => payloadFits p
  | .reqReserved w => (requestKind w).isNone
  | .evtTxc => true
  | .evtRxb _ => true
  | .evtLerr => true
  | .evtReserved w => (eventKind w).isNone
  | .wireFrame _ p => payloadFramed p
  | .fnCrc8Compute _ => true
  | .fnEncode p => payloadFramed p
  | .fnDecodeStep _ => true
  | .apiSendAsync p => payloadFits p
  | .apiSendAndReceiveAsync p _ _ _ => payloadFits p
  | .apiReceiveAsync _ => true
  | .apiPollOnce => true
  | .apiGetStatus => true
  | .apiReceivedLength => true
  | .apiSendAndReceiveSync p _ _ _ => payloadFits p
  | .apiReceiveAndReplySync _ => true

end Sys2Proof
end

