-- ==== Sys2Proof/Machine/Fetch.lean ====
section
/-! DEFINITION. How the machine takes its next input: the block has no program counter and fetches no
instruction (R22, R57, R240); the next input of `State.inputs` is presented at its tick and decoded
(R17; log 6). -/

namespace Sys2Proof.Machine

/-- What the next input comes to. -/
inductive Fetched where
  /-- There is no input: nothing is presented. -/
  | idle
  /-- The input cannot be presented. -/
  | refuse (why : Refusal)
  /-- An operation to run, at the state in which the input has been taken. -/
  | run (i : Instr) (s : State)
  /-- The host's own step, already carried out. -/
  | done (r : Result)
deriving Repr

/-- The state in which the input `x` has been taken: the rest of the inputs, the tick of this step (R87),
no output yet. -/
def present (x : Input) (rest : List Input) (s : State) : State :=
  { s with inputs := rest, env := { s.env with tick := x.now }, out := Output.empty }

/-- The refusal of a form that does not decode. -/
def decodeRefusal : DecodeError → Refusal
  | .payloadLength => .payloadLength
  | .notAFrame => .notAFrame

/-- The oldest event produced is delivered; with none, nothing is presented (R37 (c), R219). -/
def fetchPending (s : State) : Fetched :=
  match s.env.pending with
  | [] => .done (.next s)
  | w :: later => .run (decodeEvent w) { s with env := { s.env with pending := later } }

/-- A form at its port. An event the transceiver produces now queues behind those it produced before,
and the oldest is delivered (R219). -/
def fetchPort (form : Encoded) (s : State) : Fetched :=
  match form with
  | .event w => fetchPending { s with env := { s.env with pending := s.env.pending ++ [w] } }
  | .request w payload =>
    match decode (.request w payload) with
    | .instr i => .run i s
    | .bad why => .refuse (decodeRefusal why)
  | .wire bytes =>
    match decode (.wire bytes) with
    | .instr i => .run i s
    | .bad why => .refuse (decodeRefusal why)

/-- The host writes a byte of RXBUF, which it may do only while `PHASE = Idle` (R54, log 9). -/
def hostWrites (offset value : Byte) (s : State) : Result :=
  if s.block.phase = .idle then
    .next { s with block := { s.block with rxbuf := Memory.write s.block.rxbuf offset.toNat value } }
  else .refused .rxbufInUse

/-- What a stimulus comes to, at the state in which its input has been taken. -/
def fetchStimulus (x : Stimulus) (s : State) : Fetched :=
  match x with
  | .port form => fetchPort form s
  | .deliver => fetchPending s
  | .call op => if op.isApi && op.wf then .run op s else .refuse .notAFacadeCall
  | .resume => .done (.next (resume s))
  | .handlerReply payload => .done (handlerReplies payload s)
  | .hostWrite offset value => .done (hostWrites offset value s)

/-- The next input (R17). A tick below an earlier one is refused (R87, U5; log 7). -/
def fetch (s : State) : Fetched :=
  match s.inputs with
  | [] => .idle
  | x :: rest =>
    if x.now < s.env.tick then .refuse .tickDecreases
    else fetchStimulus x.what (present x rest s)

/-- The state whose next input is the form `form`, at the current tick; an event has no earlier one to
wait for. -/
def placeForm (form : Encoded) (s : State) : State :=
  { s with
    inputs := ⟨s.env.tick, .port form⟩ :: s.inputs
    env := { s.env with pending := match form with | .event _ => [] | _ => s.env.pending } }

end Sys2Proof.Machine
end

