-- ==== Sys2Proof/Machine/Step.lean ====
section
/-! DEFINITION. One step of the machine: the next input is taken and carried out, atomically (R17, R59). -/

namespace Sys2Proof.Machine

/-- One step. With no input presented nothing happens, and the machine can go on when one is (log 6). -/
def step (s : State) : Host.Outcome State Fault Refusal :=
  match fetch s with
  | .idle => .next (quiet s)
  | .refuse why => .refused why
  | .run i t => exec i t
  | .done r => r

/-- `s` with the operation of a table word as its next input (log 6, log 19). -/
def State.withFetchWord (s : State) (nbits w : Nat) : State := placeForm (tableForm nbits w) s

end Sys2Proof.Machine
end

