-- ==== Sys2Proof/Safety.lean ====
section
/-! DEFINITION. What holds along every run (10_state.md R38) and the runs that statements speak of. -/

namespace Sys2Proof.Safety

open Sys2Proof.Machine

/-- A reception is open or complete. -/
def receivingOrComplete (k : Block) : Prop := k.phase = .receiving ∨ k.phase = .receivedAwaitingCrc

/-- The staged frame may still be transmitted: it is being sent, or a retry is left (I6 of R38). -/
def mayTransmit (k : Block) : Prop :=
  k.phase = .transmitting ∨ (k.phase = .receiving ∧ k.retry ≠ 0)

/-- The invariants of R38 that are about the block's registers and memories, with what the rules named
beside each add. -/
structure BlockInv (p : Parameters) (k : Block) : Prop where
  /-- I3: the length field was accepted against RX_MAX (R115, R119). -/
  lengthBounded : receivingOrComplete k → 2 ≤ k.rxCnt.toNat → k.rxLen.toNat ≤ k.rxMax.toNat
  /-- I4: an open reception has not stored its whole payload (R116 to R118). -/
  countOpen : k.phase = .receiving →
    k.rxCnt.toNat ≤ 2 ∨ (3 ≤ k.rxCnt.toNat ∧ k.rxCnt.toNat < 3 + k.rxLen.toNat)
  /-- I5: a complete reception has stored exactly its payload (R118). -/
  countComplete : k.phase = .receivedAwaitingCrc → k.rxCnt.toNat = 3 + k.rxLen.toNat
  /-- A reception always has a buffer (R134). -/
  replyExpected : receivingOrComplete k → k.rxv = true
  /-- Retries are only left where a reply is expected (R182 b, R186). -/
  retryHasBuffer : k.phase = .transmitting → k.retry ≠ 0 → k.rxv = true
  /-- I6 with R74 and R111: a frame that may still be transmitted is one that ENCODE made, its crc field
  that of its payload. -/
  stagedEncoded : mayTransmit k → k.txCrc = crc8 p.crcTable (stagedPayload k)
  /-- The carrier is keyed while the block transmits (R33, R183, R167). -/
  carrierKeyed : k.phase = .transmitting → k.carrier = true
  /-- TXPAY is in canonical form. -/
  txpayWf : Memory.wf k.txpay = true
  /-- RXBUF is in canonical form. -/
  rxbufWf : Memory.wf k.rxbuf = true

/-- The invariant of the machine: `BlockInv`, and the environment owes what the block waits for
(R37, R226). -/
structure Inv (s : State) : Prop where
  block : BlockInv s.params s.block
  /-- While the block transmits, the transceiver still has a frame to report. -/
  txOwed : s.block.phase = .transmitting → s.env.sending ≠ []
  /-- While a reception is open, a receive is armed (R134, R137). -/
  rxArmed : s.block.phase = .receiving → s.env.armed = true

/-- I8 of R38: the carrier is on only while the block transmits. A line fault taken in `Transmitting`
breaks it (R252). -/
def carrierQuiet (k : Block) : Prop := k.carrier = true → k.phase = .transmitting

/-- The phase changes of the table of R131: which operation may take the first phase to the second. A phase
that stays needs no row. -/
def phaseRow (i : Instr) (a b : Phase) : Prop :=
  a = b ∨
  match i.core with
  | .reqSend _ _ _ _ => a = .idle ∧ b = .transmitting
  | .apiSendAndReceiveSync _ _ _ _ => a = .idle ∧ b = .transmitting
  | .reqRecv _ => a = .idle ∧ b = .receiving
  | .apiReceiveAndReplySync _ => a = .idle ∧ b = .receiving
  | .reqPoll =>
    (a = .receiving ∧ b = .transmitting) ∨ (a = .receiving ∧ b = .idle) ∨
      (a = .receivedAwaitingCrc ∧ b = .idle)
  | .evtTxc => (a = .transmitting ∧ b = .idle) ∨ (a = .transmitting ∧ b = .receiving)
  | .evtRxb _ =>
    (a = .receiving ∧ b = .idle) ∨ (a = .receiving ∧ b = .receivedAwaitingCrc)
  | .evtLerr => b = .idle
  | _ => False

/-- The operations that SEND's rules are about: SEND, its two facade names and the routine that begins
with it. -/
def isSend (i : Instr) : Prop :=
  match i.core with
  | .reqSend _ _ _ _ => True
  | .apiSendAndReceiveSync _ _ _ _ => True
  | _ => False

/-- The operations that RECV's rules are about. -/
def isRecv (i : Instr) : Prop :=
  match i.core with
  | .reqRecv _ => True
  | .apiReceiveAndReplySync _ => True
  | _ => False

/-- When a silent line is polled, `d` being the deadline and `now` the tick so far: each retry is the tick of
a POLL past the deadline and the tick of the TXC that ends its retransmission, at which the next deadline
fits its register (R163, R169); `last` is the tick of one more POLL past the deadline. -/
def silentTicks (timeout d now : Nat) : List (Tick × Tick) → Tick → Prop
  | [], last => d < last.toNat ∧ now ≤ last.toNat
  | (poll, txc) :: later, last =>
    d < poll.toNat ∧ now ≤ poll.toNat ∧ poll.toNat ≤ txc.toNat ∧ txc.toNat + timeout < 2 ^ 32 ∧
      silentTicks timeout (txc.toNat + timeout) txc.toNat later last

/-- The request word of POLL (R78), at a tick. -/
def pollAt (t : Tick) : Input := ⟨t, .port (.request 0x0000000000000003 [])⟩

/-- The event word of TXC (R82), at a tick. -/
def txcAt (t : Tick) : Input := ⟨t, .port (.event 0x0100)⟩

/-- A silent peer (R169): for each retry the POLL that finds the deadline elapsed and the TXC that ends the
retransmission, and then the POLL that looks once more. -/
def silentPeer : List (Tick × Tick) → Tick → List Input
  | [], last => [pollAt last]
  | (poll, txc) :: later, last => pollAt poll :: txcAt txc :: silentPeer later last

/-- A frame arrives whole on the line at tick `t`, its `n` bytes are delivered, and POLL looks. -/
def frameThenPoll (t : Tick) (bytes : List Byte) : List Input :=
  ⟨t, .port (.wire bytes)⟩ :: List.replicate bytes.length ⟨t, .deliver⟩ ++ [pollAt t]

end Sys2Proof.Safety
end

