-- ==== Sys2Proof/Certificates/Slice0/Obligations.lean ====
section
/-! DEFINITION. The statements about the machine. R<n> is a rule of spec/, "log <n>" the row
notes/assumptions/<n>.md. -/

open Sys2Proof Sys2Proof.Machine Sys2Proof.Safety

/-- Decoding the encoding of a well-formed operation gives the operation back (R71, R76, R78, R82, R91,
92_eei_decisions.md D9, D10).

For every well-formed operation that has an encoding, with every operand at every value the encoding
admits, decode of its encoding is that operation; a one-request pseudo-operation, whose words are
those of a request, decodes to that request (R91). -/
def Obligations.DecodeOfEncodeIsTheOperation : Prop :=
  ∀ (i : Instr) (f : Encoded), i.wf = true → encode i = some f → decode f = .instr i.core

/-- Every form that decodes is the encoding of the operation it decodes to (R71, R76, R78, R80, R82,
R83).

If a form decodes to an operation, the operation is well-formed, is no pseudo-operation, and its
encoding is that form: each form has one meaning and no bit of it is dropped. A payload list that
comes with a reserved request word is not part of that operation (log 16), so such a list is taken
as empty. -/
def Obligations.EncodeOfDecodeIsTheForm : Prop :=
  ∀ (f : Encoded) (i : Instr), decode f = .instr i →
    (∀ w p, f = .request w p → requestKind w = none → p = []) →
      i.wf = true ∧ i.isApi = false ∧ encode i = some f

/-- A request word that matches a row of R78 decodes to that request, with its fields at their bits
(R76, R77, R78, R80).

For each of the six rows: a word w with w AND mask = match, presented with a payload list of LEN
bytes where the request takes one and without one elsewhere, decodes to the request of that row;
EXPECT is bit 4, RETRY bits 15:8, LEN bits 31:16, RXMAX bits 47:32. A word with OP 6 to 15 is the
reserved request (R78, R80), here with any payload list: R77 gives it none, and that a list beside
it is not looked at is the model's choice (log 16). -/
def Obligations.RequestWordsDecodeByTheirPatterns : Prop :=
  ∀ (w : ReqWord) (p : List Byte),
    (w &&& 0xFFFFFFFFFFFFFFFF = 0x0000000000000000 → decode (.request w []) = .instr .reqGetStatus) ∧
    (w &&& 0xFFFF0000000000EF = 0x0000000000000001 → p.length = w.toNat / 2 ^ 16 % 2 ^ 16 →
      decode (.request w p) = .instr (.reqSend (w.getLsbD 4) (BitVec.ofNat 8 (w.toNat / 2 ^ 8))
        (BitVec.ofNat 16 (w.toNat / 2 ^ 32)) p)) ∧
    (w &&& 0xFFFF0000FFFFFFFF = 0x0000000000000002 →
      decode (.request w []) = .instr (.reqRecv (BitVec.ofNat 16 (w.toNat / 2 ^ 32)))) ∧
    (w &&& 0xFFFFFFFFFFFFFFFF = 0x0000000000000003 → decode (.request w []) = .instr .reqPoll) ∧
    (w &&& 0xFFFFFFFFFFFFFFFF = 0x0000000000000004 → decode (.request w []) = .instr .reqGetRxlen) ∧
    (w &&& 0xFFFFFFFF0000FFFF = 0x0000000000000005 → p.length = w.toNat / 2 ^ 16 % 2 ^ 16 →
      decode (.request w p) = .instr (.reqCrc8 p)) ∧
    (6 ≤ w.toNat % 16 → decode (.request w p) = .instr (.reqReserved w))

/-- A request word that matches no row is rejected IllegalRequest and changes nothing, in every phase
(R77, R78, R80).

A word that matches none of the six rows decodes to the reserved request whatever its payload list;
the reserved request answers 0x000F (REJ = 1, CODE = IllegalRequest), changes no state and emits no
action, in every state. A payload list whose length differs from LEN is refused by the decoder: it
cannot be presented (R77, R80). The rejection is R80's; that the list beside a reserved word is not
looked at, and that a list of another length is refused by name, are the model's (log 16). -/
def Obligations.UnmatchedRequestIsIllegal : Prop :=
  ∀ (w : ReqWord) (p : List Byte) (s : State),
    (w ≠ 0x0000000000000000 → w &&& 0xFFFF0000000000EF ≠ 0x0000000000000001 →
      w &&& 0xFFFF0000FFFFFFFF ≠ 0x0000000000000002 → w ≠ 0x0000000000000003 →
      w ≠ 0x0000000000000004 → w &&& 0xFFFFFFFF0000FFFF ≠ 0x0000000000000005 →
      decode (.request w p) = .instr (.reqReserved w)) ∧
    exec (.reqReserved w) s = .next { s with out := ⟨some 0x000F#16, [], none⟩ } ∧
    ((w &&& 0xFFFF0000000000EF = 0x0000000000000001 ∨ w &&& 0xFFFFFFFF0000FFFF = 0x0000000000000005) →
      p.length ≠ w.toNat / 2 ^ 16 % 2 ^ 16 → decode (.request w p) = .bad .payloadLength)

/-- An event word that matches no row is ignored: no state change, no action (R83).

A word that matches none of the three rows of R82 decodes to the reserved event; the reserved event
leaves every register, memory and environment field as it was and has an empty output. -/
def Obligations.UnmatchedEventIsIgnored : Prop :=
  ∀ (w : EvtWord) (s : State),
    (w ≠ 0x0100 → w &&& 0xFF00 ≠ 0x0200 → w ≠ 0x0300 →
      decode (.event w) = .instr (.evtReserved w)) ∧
    exec (.evtReserved w) s = .next { s with out := Output.empty }

/-- An event word that matches a row of R82 decodes to that event, DATA in bits 7:0 (R82).

0x0100 decodes to TXC, 0x0300 to LERR, and every word w with w AND 0xFF00 = 0x0200 to RXB of the
byte in bits 7:0; a word with KIND 0 or a non-zero bit in 15:10 is reserved. -/
def Obligations.EventWordsDecodeByTheirPatterns : Prop :=
  ∀ w : EvtWord,
    (w &&& 0xFFFF = 0x0100 → decode (.event w) = .instr .evtTxc) ∧
    (w &&& 0xFF00 = 0x0200 → decode (.event w) = .instr (.evtRxb (BitVec.ofNat 8 w.toNat))) ∧
    (w &&& 0xFFFF = 0x0300 → decode (.event w) = .instr .evtLerr) ∧
    (w.toNat / 2 ^ 8 % 2 ^ 2 = 0 ∨ w.toNat / 2 ^ 10 ≠ 0 →
      decode (.event w) = .instr (.evtReserved w))

/-- Words written out from the encoding tables decode to the operations they stand for (R71, R78, R82,
95_test_vectors.md section 2.6).

One word of each request, event and frame, written out from the tables and from 95_test_vectors.md,
decodes to its operation. A sanity statement. -/
def Obligations.WrittenOutWordsDecode : Prop :=
  decode (.request 0x0000000000000000 []) = .instr .reqGetStatus ∧
  decode (.request 0x0000001000040211 [0x50, 0x49, 0x4E, 0x47]) =
    .instr (.reqSend true 0x02 0x0010 [0x50, 0x49, 0x4E, 0x47]) ∧
  decode (.request 0x0000002000000002 []) = .instr (.reqRecv 0x0020) ∧
  decode (.request 0x0000000000000003 []) = .instr .reqPoll ∧
  decode (.request 0x0000000000000004 []) = .instr .reqGetRxlen ∧
  decode (.request 0x0000000000020005 [0x4F, 0x4B]) = .instr (.reqCrc8 [0x4F, 0x4B]) ∧
  decode (.request 0x0000000800000012 []) = .instr (.reqReserved 0x0000000800000012) ∧
  decode (.event 0x0100) = .instr .evtTxc ∧
  decode (.event 0x0255) = .instr (.evtRxb 0x55) ∧
  decode (.event 0x0300) = .instr .evtLerr ∧
  decode (.event 0x0301) = .instr (.evtReserved 0x0301) ∧
  decode (.wire [0x55, 0x02, 0x46, 0x4F, 0x4B]) = .instr (.wireFrame 0x46 [0x4F, 0x4B])

/-- A step runs the operation that its input decodes to, at the input's tick (R17, R59, R87, log 6).

When the next input is at a tick that is not below the last one and is a request, a frame, a facade
call, or an event with no earlier event pending, and it decodes to the operation i, then step is
exec of i at the state in which the input has been taken: the rest of the inputs, the new tick, no
output yet. -/
def Obligations.StepRunsTheDecodedOperation : Prop :=
  ∀ (s : State) (now : Tick) (what : Stimulus) (rest : List Input) (i : Instr),
    s.inputs = ⟨now, what⟩ :: rest → s.env.tick.toNat ≤ now.toNat →
    ((∃ w p, what = .port (.request w p) ∧ decode (.request w p) = .instr i) ∨
      (∃ bytes, what = .port (.wire bytes) ∧ decode (.wire bytes) = .instr i) ∨
      (∃ w, what = .port (.event w) ∧ s.env.pending = [] ∧ decode (.event w) = .instr i) ∨
      (what = .call i ∧ i.isApi = true ∧ i.wf = true)) →
    step s =
      exec i { s with inputs := rest, env := { s.env with tick := now }, out := Output.empty }

/-- The oldest event the transceiver has produced is taken first (R37, R219, log 10).

With w the oldest pending event, delivering takes w and leaves the later ones; an event v produced
at this step queues behind them; with nothing pending, delivering presents nothing. The queue and
the two inputs are the model's form of R37 (c) (log 10). -/
def Obligations.EventsAreDeliveredOldestFirst : Prop :=
  ∀ (s : State) (now : Tick) (rest : List Input) (w v : EvtWord) (later : List EvtWord),
    s.env.tick.toNat ≤ now.toNat →
    (s.inputs = ⟨now, .deliver⟩ :: rest → s.env.pending = w :: later →
      step s = exec (decodeEvent w) { s with
        inputs := rest, env := { s.env with tick := now, pending := later }, out := Output.empty }) ∧
    (s.inputs = ⟨now, .port (.event v)⟩ :: rest → s.env.pending = w :: later →
      step s = exec (decodeEvent w) { s with
        inputs := rest, env := { s.env with tick := now, pending := later ++ [v] }
        out := Output.empty }) ∧
    (s.inputs = ⟨now, .deliver⟩ :: rest → s.env.pending = [] →
      step s = .next { s with
        inputs := rest, env := { s.env with tick := now }, out := Output.empty })

/-- An input whose tick is below an earlier one is refused (R87, 93_implementation_defined.md U5, log
7).

Along a run the values of now never decrease (R87); an input that breaks this is outside the spec
and step refuses it by name, as U5 asks. -/
def Obligations.DecreasingTickIsRefused : Prop :=
  ∀ (s : State) (x : Input) (rest : List Input), s.inputs = x :: rest →
    x.now.toNat < s.env.tick.toNat → step s = .refused .tickDecreases

/-- With no input presented a step changes nothing (R17, R143, log 6).

The block acts only on an input; with none the machine stays as it is, with an empty output. That
such a step is a next state is the model's choice (log 6). -/
def Obligations.WithoutInputNothingHappens : Prop :=
  ∀ s : State, s.inputs = [] → step s = .next { s with out := Output.empty }

/-- No step faults, and a step that is refused has the cause that its refusal names (R54, R71, R77, R80,
R87, R91, R92, R163, R197, 93_implementation_defined.md U5, U8).

step never answers a fault; where it answers a refusal there was an input, and the refusal names its
cause: a tick below an earlier one, a deadline of 2^32 or more, a host write of RXBUF while busy, a
payload list or bytes that cannot be presented, a call that is no facade operation, or a handler's
reply when no handler is running. No operation is refused as not modelled. The spec itself refuses
the first three (R87 and U5, R163, R54 and U8); the other four are refusals of the model's own
inputs: payloadLength and notAFrame are log 16, notAFacadeCall is log 14, noHandlerRunning is log
15. -/
def Obligations.StepStopsOnlyForANamedCause : Prop :=
  ∀ s : State, (∀ e, step s ≠ .fault e) ∧
    ∀ r, step s = .refused r → ∃ x rest, s.inputs = x :: rest ∧
      match r with
      | .notModelled _ => False
      | .tickDecreases => x.now.toNat < s.env.tick.toNat
      | .deadlineOutOfRange => 2 ^ 32 ≤ x.now.toNat + s.params.byteTimeout.toNat
      | .rxbufInUse => s.block.phase ≠ .idle ∧ ∃ o v, x.what = .hostWrite o v
      | .payloadLength => ∃ w p, x.what = .port (.request w p) ∧
          decode (.request w p) = .bad .payloadLength
      | .notAFrame => ∃ bytes, x.what = .port (.wire bytes) ∧ decode (.wire bytes) = .bad .notAFrame
      | .notAFacadeCall => ∃ i, x.what = .call i ∧ (i.isApi = false ∨ i.wf = false)
      | .noHandlerRunning => (∃ p, x.what = .handlerReply p) ∧
          ∀ n, s.host.calls.head? ≠ some (.rrsHandler n)

/-- CRC8 of the empty list is 0xFF for every table; the empty frame is 55 00 FF and is Ok exactly when
its crc byte is FF (R102).

For every table, CRC8([]) = 0xFF; ENCODE of the empty payload stages exactly 55 00 FF; a received
frame of length 0 is Ok at POLL exactly when RX_CRC = 0xFF and CrcError otherwise. -/
def Obligations.CrcOfTheEmptyListIsFF : Prop :=
  ∀ (table : Vector Byte 256) (k : Block) (s : State),
    crc8 table [] = 0xFF ∧
    staged (encodeFrame table [] k) = [0x55, 0x00, 0xFF] ∧
    (s.block.phase = .receivedAwaitingCrc → s.block.rxLen = 0#8 →
      exec .reqPoll s = .next { s with
        block := { s.block with
          status := if s.block.rxCrc = 0xFF then .ok else .crcError, phase := .idle }
        out := ⟨some 0x0000#16, [], none⟩ })

/-- CRC8 extends by one table read per byte, and CRC8 of a concatenation is the fold of the rest from
CRC8 of the beginning (R101, R104).

For every table: CRC8(D ++ [b]) = T[CRC8(D) XOR b] (R101), and CRC8(D ++ E) is the fold of E started
from CRC8(D) (R104 (d)). -/
def Obligations.CrcIsTheTableFold : Prop :=
  ∀ (table : Vector Byte 256) (d e : List Byte) (b : Byte),
    crc8 table (d ++ [b]) = table.get (crc8 table d ^^^ b).toFin ∧
    crc8 table (d ++ e) = e.foldl (fun acc x => table.get (acc ^^^ x).toFin) (crc8 table d)

/-- The request CRC8 answers VALUE = CRC8(P) in every phase and changes nothing; above 255 bytes it is
rejected LengthError (R80, R103, R212, 92_eei_decisions.md D26).

In every state and for every payload the request CRC8 completes, writes no register and emits
nothing. Up to 255 bytes it answers REJ = 0, CODE = 0, VALUE = CRC8(P). Above 255 bytes it answers
0x000E (REJ = 1, CODE = LengthError): so D26 rules, against the words of R103 and R212; that D26 is
followed is the model's reading (log 5). A word with OP 5 and a non-zero unused field is the
reserved request, which is rejected, here with any payload list (log 16). -/
def Obligations.CrcRequestAnswersTheChecksum : Prop :=
  ∀ (p : List Byte) (s : State) (w : ReqWord),
    (p.length ≤ 255 → exec (.reqCrc8 p) s =
      .next { s with out := ⟨some (crc8 s.params.crcTable p ++ 0x00#8), [], none⟩ }) ∧
    (255 < p.length → exec (.reqCrc8 p) s = .next { s with out := ⟨some 0x000E#16, [], none⟩ }) ∧
    (w &&& 0xFFFFFFFF0000FFFF = 0x0000000000000005 → p.length = w.toNat / 2 ^ 16 % 2 ^ 16 →
      decode (.request w p) = .instr (.reqCrc8 p)) ∧
    (w.toNat % 16 = 5 → w &&& 0xFFFFFFFF0000FFFF ≠ 0x0000000000000005 →
      decode (.request w p) = .instr (.reqReserved w))

/-- The internal functions, run by themselves, do what they do inside the requests and events (R93,
R101, R111, R112, R123, log 13).

CRC8_COMPUTE answers CRC8(D) and writes no state; ENCODE on at most 255 bytes stages the frame and
answers it, and on more fails; DECODE_STEP makes the decoder's writes and gives the decoder's
answer. That they have an arm of their own, with the answer in out.internal, is the model's choice
(log 13). -/
def Obligations.InternalFunctionsRunByThemselves : Prop :=
  ∀ (d p : List Byte) (b : Byte) (s : State),
    exec (.fnCrc8Compute d) s =
      .next { s with out := ⟨none, [], some (.crc (crc8 s.params.crcTable d))⟩ } ∧
    (p.length ≤ 255 → exec (.fnEncode p) s = .next { s with
      block := encodeFrame s.params.crcTable p s.block
      out := ⟨none, [], some (.frame (staged (encodeFrame s.params.crcTable p s.block)))⟩ }) ∧
    (255 < p.length → exec (.fnEncode p) s = .fault .encodeTooLong) ∧
    exec (.fnDecodeStep b) s = .next { s with
      block := (decodeStep b s.block).2
      out := ⟨none, [], some (.decoder (decodeStep b s.block).1)⟩ }

/-- ENCODE writes TX_LEN, TX_CRC and TXPAY[0 .. |P|) and nothing else, and stages the frame of P (R111).

For a payload P of at most 255 bytes, on a block whose TXPAY is in canonical form: TX_LEN is |P|,
TX_CRC is CRC8(P), TXPAY[i] is P[i] for i below |P| and unchanged elsewhere, every other register is
unchanged, and the staged frame is 55, |P|, CRC8(P) followed by P. -/
def Obligations.EncodeStagesTheFrame : Prop :=
  ∀ (table : Vector Byte 256) (p : List Byte) (k : Block), Memory.wf k.txpay = true → p.length ≤ 255 →
    encodeFrame table p k = { k with
      txLen := BitVec.ofNat 8 p.length, txCrc := crc8 table p
      txpay := (encodeFrame table p k).txpay } ∧
    (∀ a, Memory.read (encodeFrame table p k).txpay a =
      if a < p.length then p.getD a 0 else Memory.read k.txpay a) ∧
    staged (encodeFrame table p k) = [0x55, BitVec.ofNat 8 p.length, crc8 table p] ++ p

/-- DECODE_STEP at RX_CNT = 0 on 0x55: RX_CNT becomes 1, nothing else is written, the answer is continue
(R113).

For every block with RX_CNT = 0. -/
def Obligations.DecoderTakesTheMagic : Prop :=
  ∀ k : Block, k.rxCnt = 0#9 → decodeStep 0x55 k = (.cont, { k with rxCnt := 1#9 })

/-- A byte other than 0x55 at RX_CNT = 0 writes no register and no memory, and RXB refreshes the
deadline and re-arms (R114).

For every block with RX_CNT = 0 and every byte other than 0x55 DECODE_STEP answers continue and
leaves the block as it was; an RXB of such a byte in phase Receiving, where the deadline fits its
register, sets DEADLINE to now + BYTE_TIMEOUT and emits RxArm and changes nothing else of the block. -/
def Obligations.NoiseBeforeAFrameIsIgnored : Prop :=
  ∀ (b : Byte) (s : State), s.block.rxCnt = 0#9 → b ≠ 0x55 →
    decodeStep b s.block = (.cont, s.block) ∧
    (s.block.phase = .receiving → s.env.tick.toNat + s.params.byteTimeout.toNat < 2 ^ 32 →
      exec (.evtRxb b) s = .next { s with
        block := { s.block with deadline := s.env.tick + s.params.byteTimeout }
        env := { s.env with armed := true }
        out := ⟨none, [.rxArm], none⟩ })

/-- DECODE_STEP at RX_CNT = 1: a length above RX_MAX answers error and writes nothing; any other is
stored (R115).

For every block with RX_CNT = 1 and every byte b: if b > RX_MAX as numbers, the answer is error and
the block is unchanged; otherwise RX_LEN is b, RX_CNT is 2, nothing else is written and the answer
is continue. -/
def Obligations.DecoderChecksTheLength : Prop :=
  ∀ (b : Byte) (k : Block), k.rxCnt = 1#9 →
    (k.rxMax.toNat < b.toNat → decodeStep b k = (.error, k)) ∧
    (b.toNat ≤ k.rxMax.toNat → decodeStep b k = (.cont, { k with rxLen := b, rxCnt := 2#9 }))

/-- DECODE_STEP at RX_CNT = 2 stores the crc byte; a frame of length 0 is complete there (R116).

For every block with RX_CNT = 2 and every byte b: RX_CRC is b, RX_CNT is 3, nothing else is written;
the answer is complete if RX_LEN = 0 and continue otherwise. -/
def Obligations.DecoderStoresTheCrc : Prop :=
  ∀ (b : Byte) (k : Block), k.rxCnt = 2#9 →
    decodeStep b k =
      (if k.rxLen = 0#8 then .complete else .cont, { k with rxCrc := b, rxCnt := 3#9 })

/-- DECODE_STEP at 3 <= RX_CNT < 3 + RX_LEN stores the byte at RXBUF[RX_CNT - 3]; the last one completes
the frame (R117, R118, 92_eei_decisions.md D21).

For every block whose RXBUF is in canonical form: the byte lands at offset RX_CNT - 3, every other
byte of RXBUF is unchanged, RX_CNT goes up by one, no other register is written; the answer is
complete exactly when the new RX_CNT is 3 + RX_LEN. With RX_CNT >= 3 + RX_LEN, a state no run
reaches, the answer is error and nothing is written: this last clause is the convention that R118
and D21 leave to a total function (log 21). -/
def Obligations.DecoderStoresThePayload : Prop :=
  ∀ (b : Byte) (k : Block), Memory.wf k.rxbuf = true → 3 ≤ k.rxCnt.toNat →
    (k.rxCnt.toNat < 3 + k.rxLen.toNat →
      (decodeStep b k).1 = (if k.rxCnt.toNat + 1 = 3 + k.rxLen.toNat then .complete else .cont) ∧
      (decodeStep b k).2 =
        { k with rxCnt := (decodeStep b k).2.rxCnt, rxbuf := (decodeStep b k).2.rxbuf } ∧
      (decodeStep b k).2.rxCnt.toNat = k.rxCnt.toNat + 1 ∧
      ∀ a, Memory.read (decodeStep b k).2.rxbuf a =
        if a + 3 = k.rxCnt.toNat then b else Memory.read k.rxbuf a) ∧
    (3 + k.rxLen.toNat ≤ k.rxCnt.toNat → decodeStep b k = (.error, k))

/-- DECODE of ENCODE(P) gives P and CRC8(P) on the last byte of the frame, whatever noise comes before;
with a bound below |P| it errs on byte two (R120).

For every table, payload P of at most 255 bytes, block with RX_CNT = 0 and RXBUF in canonical form,
bytes other than 0x55 before the frame and any bytes after it: if |P| <= RX_MAX, decoding the frame
ends complete with exactly the bytes after the frame left over, the received payload is P, RX_CRC is
CRC8(P), RX_LEN is |P|, RX_CNT is 3 + |P|, and RXBUF is unchanged at and beyond |P|; if |P| > RX_MAX
it ends in error on the frame's second byte. -/
def Obligations.DecodeInvertsEncode : Prop :=
  ∀ (table : Vector Byte 256) (p noise after : List Byte) (k : Block),
    Memory.wf k.rxbuf = true → k.rxCnt = 0#9 → p.length ≤ 255 → (∀ b ∈ noise, b ≠ 0x55) →
    (p.length ≤ k.rxMax.toNat → ∃ k',
      decodeBytes (noise ++ [0x55, BitVec.ofNat 8 p.length, crc8 table p] ++ p ++ after) k =
        (.complete, k', after) ∧
      receivedPayload k' = p ∧ k'.rxCrc = crc8 table p ∧ k'.rxLen.toNat = p.length ∧
      k'.rxCnt.toNat = 3 + p.length ∧
      ∀ a, p.length ≤ a → Memory.read k'.rxbuf a = Memory.read k.rxbuf a) ∧
    (k.rxMax.toNat < p.length →
      decodeBytes (noise ++ [0x55, BitVec.ofNat 8 p.length, crc8 table p] ++ p ++ after) k =
        (.error, { k with rxCnt := 1#9 }, crc8 table p :: (p ++ after)))

/-- No received byte makes the block write RXBUF at or beyond RX_LEN, nor, in a reception, at or beyond
RX_MAX; nothing else writes it (R119).

A byte of RXBUF that DECODE_STEP changes is at offset RX_CNT - 3, below RX_LEN, and below 255; in
phase Receiving, under the invariant BlockInv (stated to be kept), it is below RX_MAX. No operation
other than RXB and DECODE_STEP changes RXBUF. RX_MAX changes only by an accepted SEND or RECV. -/
def Obligations.RxbufWritesStayBelowTheLength : Prop :=
  (∀ (b : Byte) (k : Block) (p : Parameters) (a : Nat), Memory.wf k.rxbuf = true →
    Memory.read (decodeStep b k).2.rxbuf a ≠ Memory.read k.rxbuf a →
      a + 3 = k.rxCnt.toNat ∧ a < k.rxLen.toNat ∧ a < 255 ∧
      (BlockInv p k → k.phase = .receiving → a < k.rxMax.toNat)) ∧
  (∀ (i : Instr) (s t : State), exec i s = .next t →
    (t.block.rxbuf ≠ s.block.rxbuf → ∃ b, i = .evtRxb b ∨ i = .fnDecodeStep b) ∧
    (t.block.rxMax ≠ s.block.rxMax → (isSend i ∨ isRecv i) ∧ s.block.phase = .idle))

/-- TXC in Transmitting stops the carrier; without a reply it latches Ok, with one it opens the
reception; elsewhere it changes nothing of the block (R133).

In phase Transmitting: with RXV = 0 the carrier stops, STATUS is Ok, PHASE is Idle; with RXV = 1,
where the deadline fits its register, the carrier stops, PHASE is Receiving, RX_CNT is 0, DEADLINE
is now + BYTE_TIMEOUT, and the actions are CarrierStop, RxArm. In any other phase the block is
unchanged and nothing is emitted. Nothing else of the block changes; the transceiver no longer owes
that TXC, and in the second case a receive is armed (the environment of R37, log 10). -/
def Obligations.TxcEndsTheTransmission : Prop :=
  ∀ s : State,
    (s.block.phase = .transmitting → s.block.rxv = false → exec .evtTxc s = .next { s with
      block := { s.block with carrier := false, status := .ok, phase := .idle }
      env := { s.env with sending := s.env.sending.tail }
      out := ⟨none, [.carrierStop], none⟩ }) ∧
    (s.block.phase = .transmitting → s.block.rxv = true →
      s.env.tick.toNat + s.params.byteTimeout.toNat < 2 ^ 32 →
      exec .evtTxc s = .next { s with
        block := { s.block with
          carrier := false, phase := .receiving, rxCnt := 0#9
          deadline := s.env.tick + s.params.byteTimeout }
        env := { s.env with sending := s.env.sending.tail, armed := true }
        out := ⟨none, [.carrierStop, .rxArm], none⟩ }) ∧
    (s.block.phase ≠ .transmitting → exec .evtTxc s = .next { s with
      env := { s.env with sending := s.env.sending.tail }
      out := ⟨none, [], none⟩ })

/-- RXB in Receiving runs DECODE_STEP and then refreshes and re-arms, latches Error, or goes to
ReceivedAwaitingCrc (R136, R137).

In phase Receiving, with DECODE_STEP answering r and leaving the block k: on continue, where the
deadline fits its register, DEADLINE is now + BYTE_TIMEOUT and RxArm is emitted; on error STATUS is
Error and PHASE is Idle and nothing is emitted; on complete PHASE is ReceivedAwaitingCrc, no
deadline is refreshed, no status is latched, nothing is emitted. Nothing else changes but that the
receive is no longer armed where it is not re-armed. In any other phase the block is unchanged. -/
def Obligations.RxbFollowsTheDecoder : Prop :=
  ∀ (b : Byte) (s : State) (k : Block),
    (s.block.phase = .receiving → decodeStep b s.block = (.cont, k) →
      s.env.tick.toNat + s.params.byteTimeout.toNat < 2 ^ 32 →
      exec (.evtRxb b) s = .next { s with
        block := { k with deadline := s.env.tick + s.params.byteTimeout }
        env := { s.env with armed := true }
        out := ⟨none, [.rxArm], none⟩ }) ∧
    (s.block.phase = .receiving → decodeStep b s.block = (.error, k) →
      exec (.evtRxb b) s = .next { s with
        block := { k with status := .error, phase := .idle }
        env := { s.env with armed := false }
        out := ⟨none, [], none⟩ }) ∧
    (s.block.phase = .receiving → decodeStep b s.block = (.complete, k) →
      exec (.evtRxb b) s = .next { s with
        block := { k with phase := .receivedAwaitingCrc }
        env := { s.env with armed := false }
        out := ⟨none, [], none⟩ }) ∧
    (s.block.phase ≠ .receiving → exec (.evtRxb b) s = .next { s with
        env := { s.env with armed := false }
        out := ⟨none, [], none⟩ })

/-- LERR in a non-idle phase latches Error and writes nothing else; in Idle it changes nothing of the
block (R139).

In every phase other than Idle, STATUS is Error and PHASE is Idle; RX_CNT, RX_LEN, RX_CRC, RETRY,
DEADLINE, CARRIER, RXBUF and every other register keep their values, no action is emitted. In Idle
the block is unchanged. The receive is no longer armed. -/
def Obligations.LineFaultLatchesError : Prop :=
  ∀ s : State,
    (s.block.phase ≠ .idle → exec .evtLerr s = .next { s with
      block := { s.block with status := .error, phase := .idle }
      env := { s.env with armed := false }
      out := ⟨none, [], none⟩ }) ∧
    (s.block.phase = .idle → exec .evtLerr s = .next { s with
      env := { s.env with armed := false }
      out := ⟨none, [], none⟩ })

/-- TXC outside Transmitting, RXB outside Receiving and LERR in Idle leave the whole block unchanged and
emit nothing (R141, 92_eei_decisions.md D18, log 11).

The three events answer a next state with the same block and no output; only the environment's note
of what the transceiver still owes changes. That they are ignored and not refused is the choice R141
makes and U6 allows to differ (log 11). -/
def Obligations.EventsWithoutARowAreIgnored : Prop :=
  ∀ (b : Byte) (s : State),
    (s.block.phase ≠ .transmitting → exec .evtTxc s = .next { s with
      env := { s.env with sending := s.env.sending.tail }, out := ⟨none, [], none⟩ }) ∧
    (s.block.phase ≠ .receiving → exec (.evtRxb b) s = .next { s with
      env := { s.env with armed := false }, out := ⟨none, [], none⟩ }) ∧
    (s.block.phase = .idle → exec .evtLerr s = .next { s with
      env := { s.env with armed := false }, out := ⟨none, [], none⟩ })

/-- A step that would set a deadline of 2^32 or more is refused; below that the deadline stored is the
sum over the naturals (R163).

With now + BYTE_TIMEOUT >= 2^32: an accepted RECV, a TXC in Transmitting with RXV = 1, and an RXB in
Receiving whose decoder answer is continue are refused by name. With a sum below 2^32 the DEADLINE
that refresh_deadline stores is exactly that sum. -/
def Obligations.DeadlineBeyondTheRegisterIsRefused : Prop :=
  ∀ (m : Len) (b : Byte) (s : State),
    (2 ^ 32 ≤ s.env.tick.toNat + s.params.byteTimeout.toNat →
      (s.block.phase = .idle → exec (.reqRecv m) s = .refused .deadlineOutOfRange) ∧
      (s.block.phase = .transmitting → s.block.rxv = true →
        exec .evtTxc s = .refused .deadlineOutOfRange) ∧
      (s.block.phase = .receiving → (decodeStep b s.block).1 = .cont →
        exec (.evtRxb b) s = .refused .deadlineOutOfRange)) ∧
    (s.env.tick.toNat + s.params.byteTimeout.toNat < 2 ^ 32 → ∃ d : Tick,
      d.toNat = s.env.tick.toNat + s.params.byteTimeout.toNat ∧
      refreshDeadline s = .next { s with block := { s.block with deadline := d } })

/-- POLL in Idle or Transmitting, or in Receiving before the deadline has elapsed, changes nothing and
answers 0x0000 (R166, R171).

In phase Idle or Transmitting, and in phase Receiving with now <= DEADLINE (equality included), POLL
leaves the whole state unchanged, emits nothing and answers REJ = 0, CODE = 0, VALUE = 0. -/
def Obligations.PollWithNothingToDoChangesNothing : Prop :=
  ∀ s : State,
    (s.block.phase = .idle ∨ s.block.phase = .transmitting ∨
      (s.block.phase = .receiving ∧ s.env.tick.toNat ≤ s.block.deadline.toNat)) →
    exec .reqPoll s = .next { s with out := ⟨some 0x0000#16, [], none⟩ }

/-- POLL in Receiving past the deadline with RETRY > 0 takes one retry and sends the staged frame again
(R167).

In phase Receiving with now > DEADLINE and RETRY > 0: RETRY goes down by one, PHASE is Transmitting,
CARRIER is 1, the actions are CarrierStart and TxStart of the staged frame 55, TX_LEN, TX_CRC,
TXPAY[0 .. TX_LEN); every other register, the staging and RXBUF are unchanged; the transceiver owes
one more TXC. -/
def Obligations.PollRetransmitsAfterSilence : Prop :=
  ∀ s : State, s.block.phase = .receiving → s.block.deadline.toNat < s.env.tick.toNat →
    s.block.retry ≠ 0#8 → ∃ r : Byte, r.toNat + 1 = s.block.retry.toNat ∧
    exec .reqPoll s = .next { s with
      block := { s.block with retry := r, phase := .transmitting, carrier := true }
      env := { s.env with sending := s.env.sending ++
        [[0x55, s.block.txLen, s.block.txCrc] ++ Memory.slice s.block.txpay s.block.txLen.toNat] }
      out := ⟨some 0x0000#16, [.carrierStart, .txStart
        ([0x55, s.block.txLen, s.block.txCrc] ++
          Memory.slice s.block.txpay s.block.txLen.toNat)], none⟩ }

/-- POLL in Receiving past the deadline with RETRY = 0 latches Timeout and writes nothing else (R168).

In phase Receiving with now > DEADLINE and RETRY = 0, STATUS is Timeout and PHASE is Idle; nothing
else is written and no action is emitted. -/
def Obligations.PollTimesOutAfterTheLastRetry : Prop :=
  ∀ s : State, s.block.phase = .receiving → s.block.deadline.toNat < s.env.tick.toNat →
    s.block.retry = 0#8 →
    exec .reqPoll s = .next { s with
      block := { s.block with status := .timeout, phase := .idle }
      out := ⟨some 0x0000#16, [], none⟩ }

/-- POLL in ReceivedAwaitingCrc latches Ok if the checksum of the received payload is RX_CRC, CrcError
if not, at any tick (R170).

In phase ReceivedAwaitingCrc, whatever now, DEADLINE and RETRY are: with CRC8(RXBUF[0 .. RX_LEN)) =
RX_CRC STATUS is Ok, otherwise CrcError; PHASE is Idle; nothing else is written and no action is
emitted. -/
def Obligations.PollChecksTheCompleteFrame : Prop :=
  ∀ s : State, s.block.phase = .receivedAwaitingCrc →
    exec .reqPoll s = .next { s with
      block := { s.block with
        status :=
          if crc8 s.params.crcTable (Memory.slice s.block.rxbuf s.block.rxLen.toNat) = s.block.rxCrc
          then .ok else .crcError
        phase := .idle }
      out := ⟨some 0x0000#16, [], none⟩ }

/-- SEND is rejected Busy, InvalidArgument or LengthError, in this order, and changes nothing (R182).

PHASE not Idle: 0x0009. In Idle with EXPECT = 0 and RETRY > 0: 0x000D, whatever the length. In Idle
with a legal retry count and more than 255 bytes: 0x000E. In each case no register, memory or
environment field changes and nothing is emitted. -/
def Obligations.SendIsRejectedInTheOrderOfItsChecks : Prop :=
  ∀ (e : Bool) (r : Byte) (m : Len) (p : List Byte) (s : State),
    (s.block.phase ≠ .idle →
      exec (.reqSend e r m p) s = .next { s with out := ⟨some 0x0009#16, [], none⟩ }) ∧
    (s.block.phase = .idle → e = false → r ≠ 0#8 →
      exec (.reqSend e r m p) s = .next { s with out := ⟨some 0x000D#16, [], none⟩ }) ∧
    (s.block.phase = .idle → (e = true ∨ r = 0#8) → 255 < p.length →
      exec (.reqSend e r m p) s = .next { s with out := ⟨some 0x000E#16, [], none⟩ })

/-- An accepted SEND stages the frame, stores its operands, starts the carrier and the transmission, and
changes nothing else (R183).

In phase Idle, with EXPECT = 1 or RETRY = 0 and at most 255 bytes: TX_LEN, TX_CRC, TXPAY[0 .. LEN),
RXV, RX_MAX, RETRY, PHASE and CARRIER are written as R183 says; the actions are CarrierStart,
TxStart(55, LEN, CRC8(P), P); the answer is 0x0000. STATUS, RX_CNT, RX_LEN, RX_CRC, DEADLINE, RXBUF
and every byte of TXPAY at or beyond LEN are unchanged. On a TXPAY in canonical form the frame
handed over is the staged frame of the new state. -/
def Obligations.SendStagesAndTransmits : Prop :=
  ∀ (e : Bool) (r : Byte) (m : Len) (p : List Byte) (s : State),
    s.block.phase = .idle → (e = true ∨ r = 0#8) → p.length ≤ 255 → Memory.wf s.block.txpay = true →
    ∃ t, exec (.reqSend e r m p) s = .next t ∧
      t = { s with
        block := { s.block with
          txLen := BitVec.ofNat 8 p.length, txCrc := crc8 s.params.crcTable p
          txpay := t.block.txpay, rxv := e, rxMax := m, retry := r, phase := .transmitting
          carrier := true }
        env := { s.env with sending := s.env.sending ++
          [[0x55, BitVec.ofNat 8 p.length, crc8 s.params.crcTable p] ++ p] }
        out := ⟨some 0x0000#16, [.carrierStart, .txStart
          ([0x55, BitVec.ofNat 8 p.length, crc8 s.params.crcTable p] ++ p)], none⟩ } ∧
      (∀ a, Memory.read t.block.txpay a =
        if a < p.length then p.getD a 0 else Memory.read s.block.txpay a) ∧
      staged t.block = [0x55, BitVec.ofNat 8 p.length, crc8 s.params.crcTable p] ++ p

/-- RECV in Idle arms a reception; in any other phase it is rejected Busy and changes nothing (R185,
R186).

In phase Idle, where the deadline fits its register: RXV is 1, RX_MAX is the operand, RETRY is 0,
PHASE is Receiving, RX_CNT is 0, DEADLINE is now + BYTE_TIMEOUT, the action is RxArm, the answer
0x0000; the staging registers, STATUS, CARRIER and everything else are unchanged. In any other phase
the answer is 0x0009 and nothing changes. A word with OP 2 and a non-zero EXPECT, RETRY, LEN or
reserved field, presented with no payload list (R77), is the reserved request, which is rejected. -/
def Obligations.RecvOpensAReception : Prop :=
  ∀ (m : Len) (s : State) (w : ReqWord),
    (s.block.phase = .idle → s.env.tick.toNat + s.params.byteTimeout.toNat < 2 ^ 32 →
      exec (.reqRecv m) s = .next { s with
        block := { s.block with
          rxv := true, rxMax := m, retry := 0#8, phase := .receiving, rxCnt := 0#9
          deadline := s.env.tick + s.params.byteTimeout }
        env := { s.env with armed := true }
        out := ⟨some 0x0000#16, [.rxArm], none⟩ }) ∧
    (s.block.phase ≠ .idle →
      exec (.reqRecv m) s = .next { s with out := ⟨some 0x0009#16, [], none⟩ }) ∧
    (w.toNat % 16 = 2 → w &&& 0xFFFF0000FFFFFFFF ≠ 0x0000000000000002 →
      decode (.request w []) = .instr (.reqReserved w))

/-- GET_STATUS answers Busy exactly when PHASE is not Idle and the latched status otherwise, and changes
nothing (R24, R189).

In every state GET_STATUS completes with REJ = 0, VALUE = 0 and CODE = 1 when PHASE is not Idle,
else 0, 2, 3 or 4 for STATUS Ok, CrcError, Error, Timeout; it writes nothing and emits nothing, and
CODE is 1 if and only if PHASE is not Idle. -/
def Obligations.GetStatusReportsBusyOrTheLatch : Prop :=
  ∀ s : State, ∃ c : RespWord,
    exec .reqGetStatus s = .next { s with out := ⟨some c, [], none⟩ } ∧
    (s.block.phase ≠ .idle ↔ c = 0x0001#16) ∧
    (s.block.phase = .idle → c = match s.block.status with
      | .ok => 0x0000#16 | .crcError => 0x0002#16 | .error => 0x0003#16 | .timeout => 0x0004#16)

/-- GET_RXLEN answers RX_LEN when PHASE = Idle, STATUS is Ok or CrcError and RXV = 1; otherwise some
VALUE, and no register changes (R26, R190, R241, R243, 92_eei_decisions.md D23,
93_implementation_defined.md U4).

When valid: REJ = 0, CODE = 0, VALUE = RX_LEN, nothing is written and nothing emitted. When not
valid: it is carried out too, with REJ = 0, CODE = 0 and a VALUE of which nothing is said; no
register, memory or environment field changes (the model's counter of free values goes up: how the
VALUE is drawn is the model's choice, log 4). The formula of R190 is taken before the first
operation too: that a reset draw of Ok or CrcError with RXV = 1 then makes it valid, where R26, R39,
R241 and U4 call it not valid or its VALUE unspecified, is the model's choice (log 22). -/
def Obligations.GetRxlenAnswersTheLengthWhenValid : Prop :=
  ∀ s : State,
    (s.block.phase = .idle → (s.block.status = .ok ∨ s.block.status = .crcError) →
      s.block.rxv = true →
      exec .reqGetRxlen s = .next { s with out := ⟨some (s.block.rxLen ++ 0x00#8), [], none⟩ }) ∧
    (¬ (s.block.phase = .idle ∧ (s.block.status = .ok ∨ s.block.status = .crcError) ∧
        s.block.rxv = true) → ∃ v : Byte,
      exec .reqGetRxlen s = .next { s with
        draws := s.draws + 1, out := ⟨some (v ++ 0x00#8), [], none⟩ })

/-- Each asynchronous facade operation does exactly what the request it stands for does (R91).

In every state sendAsync(P) is SEND with expect 0, rxmax 0, retry 0; sendAndReceiveAsync is SEND
with its operands; receiveAsync is RECV; pollOnce is POLL; getStatus is GET_STATUS; receivedLength
is GET_RXLEN. Accepted, they complete: the two sends in phase Transmitting, receiveAsync in phase
Receiving; pollOnce, getStatus and receivedLength complete in every state. -/
def Obligations.AsyncCallsActAsTheirRequests : Prop :=
  ∀ (e : Bool) (r : Byte) (m : Len) (p : List Byte) (s : State),
    exec (.apiSendAsync p) s = exec (.reqSend false 0#8 0#16 p) s ∧
    exec (.apiSendAndReceiveAsync p e m r) s = exec (.reqSend e r m p) s ∧
    exec (.apiReceiveAsync m) s = exec (.reqRecv m) s ∧
    (∃ t, exec .apiPollOnce s = .next t ∧ exec .reqPoll s = .next t) ∧
    (∃ t, exec .apiGetStatus s = .next t ∧ exec .reqGetStatus s = .next t) ∧
    (∃ t, exec .apiReceivedLength s = .next t ∧ exec .reqGetRxlen s = .next t) ∧
    (s.block.phase = .idle → p.length ≤ 255 →
      (∃ t, exec (.apiSendAsync p) s = .next t ∧ t.block.phase = .transmitting ∧
        t.block.rxv = false) ∧
      ((e = true ∨ r = 0#8) → ∃ t, exec (.apiSendAndReceiveAsync p e m r) s = .next t ∧
        t.block.phase = .transmitting ∧ t.block.rxv = e ∧ t.block.rxMax = m ∧ t.block.retry = r)) ∧
    (s.block.phase = .idle → s.env.tick.toNat + s.params.byteTimeout.toNat < 2 ^ 32 →
      ∃ t, exec (.apiReceiveAsync m) s = .next t ∧ t.block.phase = .receiving ∧ t.block.rxMax = m)

/-- The synchronous routines make their starting request and go on to POLL, or return failure with the
rejection code (R92, R196, R197, log 15).

sendAndReceiveSync makes the SEND, receiveAndReplySync the RECV, in the same step; accepted, the
routine stands at its first POLL on top of the routines already being carried out; rejected, it
returns failure with the code of the response word. That a routine's first line is the step of the
call is the model's choice (log 15). -/
def Obligations.SyncRoutinesBeginWithTheirRequest : Prop :=
  ∀ (e : Bool) (r : Byte) (m : Len) (p : List Byte) (s : State),
    (s.block.phase = .idle → (e = true ∨ r = 0#8) → p.length ≤ 255 →
      ∃ u, exec (.reqSend e r m p) s = .next u ∧ u.block.phase = .transmitting ∧
        exec (.apiSendAndReceiveSync p e m r) s =
          .next { u with host := ⟨.srsPoll :: s.host.calls, s.host.result⟩ }) ∧
    (s.block.phase ≠ .idle → exec (.apiSendAndReceiveSync p e m r) s = .next { s with
      host := ⟨s.host.calls, some (.failure 1#3)⟩, out := ⟨some 0x0009#16, [], none⟩ }) ∧
    (s.block.phase = .idle → e = false → r ≠ 0#8 →
      exec (.apiSendAndReceiveSync p e m r) s = .next { s with
        host := ⟨s.host.calls, some (.failure 5#3)⟩, out := ⟨some 0x000D#16, [], none⟩ }) ∧
    (s.block.phase = .idle → (e = true ∨ r = 0#8) → 255 < p.length →
      exec (.apiSendAndReceiveSync p e m r) s = .next { s with
        host := ⟨s.host.calls, some (.failure 6#3)⟩, out := ⟨some 0x000E#16, [], none⟩ }) ∧
    (s.block.phase = .idle → s.env.tick.toNat + s.params.byteTimeout.toNat < 2 ^ 32 →
      ∃ u, exec (.reqRecv m) s = .next u ∧ u.block.phase = .receiving ∧
        exec (.apiReceiveAndReplySync m) s =
          .next { u with host := ⟨.rrsPoll :: s.host.calls, s.host.result⟩ }) ∧
    (s.block.phase ≠ .idle → exec (.apiReceiveAndReplySync m) s = .next { s with
      host := ⟨s.host.calls, some (.failure 1#3)⟩, out := ⟨some 0x0009#16, [], none⟩ })

/-- sendAndReceiveSync polls, reads the status, loops while Busy, and returns the received length on Ok
or failure with the status (R196, log 15).

Each line the host carries out is one request: POLL; GET_STATUS and then the loop test; GET_RXLEN
and the return of success with its VALUE. While Busy the routine goes back to POLL; on Ok it goes to
GET_RXLEN; on any other status it returns failure with that code. -/
def Obligations.SendAndReceiveSyncLoopsToItsReturn : Prop :=
  ∀ (s t₀ : State) (now : Tick) (rest : List Input) (outer : List Routine),
    s.inputs = ⟨now, .resume⟩ :: rest → s.env.tick.toNat ≤ now.toNat →
    t₀ = { s with inputs := rest, env := { s.env with tick := now }, out := Output.empty } →
    (s.host.calls = .srsPoll :: outer → ∃ u, exec .reqPoll t₀ = .next u ∧
      step s = .next { u with host := ⟨.srsStatus :: outer, s.host.result⟩ }) ∧
    (s.host.calls = .srsStatus :: outer → ∃ u, exec .reqGetStatus t₀ = .next u ∧
      step s = .next { u with host :=
        if s.block.phase ≠ .idle then ⟨.srsPoll :: outer, s.host.result⟩
        else if s.block.status = .ok then ⟨.srsLength :: outer, s.host.result⟩
        else ⟨outer, some (.failure s.block.status.code.bits)⟩ }) ∧
    (s.host.calls = .srsLength :: outer → ∃ u w, exec .reqGetRxlen t₀ = .next u ∧
      u.out.resp = some w ∧
      step s = .next { u with host := ⟨outer, some (.success (some (respValue w)))⟩ })

/-- receiveAndReplySync polls to completion, hands the received length to the handler, sends the reply
and polls to completion (R197, log 15).

Each line the host carries out is one request. After an Ok reception GET_RXLEN gives the length to
the replyHandler; while the handler runs no request is made; its reply is sent by SEND with expect
0, and a rejected SEND returns failure with its code; the reply's loop returns success on Ok and
failure with the status otherwise. A reception that does not end Ok returns failure and sends
nothing. -/
def Obligations.ReceiveAndReplySyncLoopsToItsReturn : Prop :=
  ∀ (s t₀ : State) (now : Tick) (rest : List Input) (outer : List Routine) (n : Byte)
    (q : List Byte),
    s.env.tick.toNat ≤ now.toNat →
    t₀ = { s with inputs := rest, env := { s.env with tick := now }, out := Output.empty } →
    (s.inputs = ⟨now, .resume⟩ :: rest →
      (s.host.calls = .rrsPoll :: outer → ∃ u, exec .reqPoll t₀ = .next u ∧
        step s = .next { u with host := ⟨.rrsStatus :: outer, s.host.result⟩ }) ∧
      (s.host.calls = .rrsStatus :: outer → ∃ u, exec .reqGetStatus t₀ = .next u ∧
        step s = .next { u with host :=
          if s.block.phase ≠ .idle then ⟨.rrsPoll :: outer, s.host.result⟩
          else if s.block.status = .ok then ⟨.rrsLength :: outer, s.host.result⟩
          else ⟨outer, some (.failure s.block.status.code.bits)⟩ }) ∧
      (s.host.calls = .rrsLength :: outer → ∃ u w, exec .reqGetRxlen t₀ = .next u ∧
        u.out.resp = some w ∧
        step s = .next { u with host := ⟨.rrsHandler (respValue w) :: outer, s.host.result⟩ }) ∧
      (s.host.calls = .rrsHandler n :: outer → step s = .next t₀) ∧
      (s.host.calls = .rrsReplyPoll :: outer → ∃ u, exec .reqPoll t₀ = .next u ∧
        step s = .next { u with host := ⟨.rrsReplyStatus :: outer, s.host.result⟩ }) ∧
      (s.host.calls = .rrsReplyStatus :: outer → ∃ u, exec .reqGetStatus t₀ = .next u ∧
        step s = .next { u with host :=
          if s.block.phase ≠ .idle then ⟨.rrsReplyPoll :: outer, s.host.result⟩
          else if s.block.status = .ok then ⟨outer, some (.success none)⟩
          else ⟨outer, some (.failure s.block.status.code.bits)⟩ })) ∧
    (s.inputs = ⟨now, .handlerReply q⟩ :: rest → s.host.calls = .rrsHandler n :: outer →
      ∃ u w, exec (.reqSend false 0#8 0#16 q) t₀ = .next u ∧ u.out.resp = some w ∧
        step s = .next { u with host :=
          if (respRej w) then ⟨outer, some (.failure (respCode w))⟩
          else ⟨.rrsReplyPoll :: outer, s.host.result⟩ })

/-- A frame arriving on the line gives one RXB event per byte, in the order magic, length, crc, payload
(R55, R56, R71, log 12).

The wire frame with crc byte c and payload P adds to the events the transceiver has produced the
words 0x0200 + b for the bytes b of 55, |P|, c, P in this order, behind those already there; the
block is unchanged and nothing is emitted. That a frame arrives whole in the queue is the model's
choice (log 12). -/
def Obligations.FrameBytesArriveInWireOrder : Prop :=
  ∀ (c : Byte) (p : List Byte) (s : State),
    exec (.wireFrame c p) s = .next { s with
      env := { s.env with pending := s.env.pending ++
        ([0x55, BitVec.ofNat 8 p.length, c] ++ p).map (fun b => BitVec.ofNat 16 (0x0200 + b.toNat)) }
      out := Output.empty }

/-- A whole frame that arrives in an open reception ends Ok at the next POLL exactly when its crc byte
is the checksum of its payload (R56, R105, R120, R136, R137, R170, log 12).

From a reception just armed (RX_CNT = 0, nothing pending, RXBUF in canonical form), let a frame of
|P| <= min(255, RX_MAX) payload bytes with crc byte c arrive, be delivered byte by byte and then be
polled, all at one tick from which a deadline fits: the |P| + 5 steps complete, PHASE is Idle,
STATUS is Ok if c = CRC8(P) and CrcError if not, RX_LEN is |P|, the received payload is P, RXBUF
beyond it is unchanged, and RETRY, the staging and CARRIER are as before. -/
def Obligations.FrameOnTheLineIsCheckedAtThePoll : Prop :=
  ∀ (s : State) (t : Tick) (c : Byte) (p : List Byte) (rest : List Input),
    Memory.wf s.block.rxbuf = true → s.block.phase = .receiving → s.block.rxCnt = 0#9 →
    s.env.pending = [] → p.length ≤ 255 → p.length ≤ s.block.rxMax.toNat →
    s.env.tick.toNat ≤ t.toNat → t.toNat + s.params.byteTimeout.toNat < 2 ^ 32 →
    s.inputs = frameThenPoll t ([0x55, BitVec.ofNat 8 p.length, c] ++ p) ++ rest →
    ∃ u, Host.Core.run Sys2Proof.core (p.length + 5) s = .next u ∧
      u.block.phase = .idle ∧
      u.block.status = (if c = crc8 s.params.crcTable p then .ok else .crcError) ∧
      u.block.rxLen.toNat = p.length ∧ receivedPayload u.block = p ∧
      (∀ a, p.length ≤ a → Memory.read u.block.rxbuf a = Memory.read s.block.rxbuf a) ∧
      u.block.retry = s.block.retry ∧ staged u.block = staged s.block ∧
      u.block.carrier = s.block.carrier ∧ u.inputs = rest

/-- With a silent peer an operation with n retries left sends its frame n more times and then ends with
Timeout (R133, R161, R163, R167, R168, R169).

From phase Receiving with a reply buffer, RETRY = n and nothing pending, the inputs being n times a
POLL past the deadline and then, at that tick or later, the TXC of the retransmission, and at last
one more POLL past the deadline. Each of the n POLLs takes one from RETRY, goes to Transmitting and
emits exactly CarrierStart and TxStart of the frame staged at the beginning; each TXC goes back to
Receiving and emits CarrierStop and RxArm. The last of the 2 n + 1 steps emits nothing and leaves
PHASE = Idle, STATUS = Timeout, RETRY = 0 and the staged frame unchanged. The tick of each TXC
leaves room for the deadline it sets (R163); the last POLL sets none and may come at any tick past
the deadline. -/
def Obligations.SilentPeerEndsInTimeoutAfterAllRetries : Prop :=
  ∀ (s : State) (retries : List (Tick × Tick)) (last : Tick) (rest : List Input),
    s.block.phase = .receiving → s.block.rxv = true → s.env.pending = [] →
    retries.length = s.block.retry.toNat →
    silentTicks s.params.byteTimeout.toNat s.block.deadline.toNat s.env.tick.toNat retries last →
    s.inputs = silentPeer retries last ++ rest →
    (∀ k, k < s.block.retry.toNat →
      (∃ v, Host.Core.run Sys2Proof.core (2 * k + 1) s = .next v ∧
        v.block.phase = .transmitting ∧ v.block.retry.toNat + (k + 1) = s.block.retry.toNat ∧
        v.out = ⟨some 0x0000#16, [.carrierStart, .txStart (staged s.block)], none⟩) ∧
      ∃ v, Host.Core.run Sys2Proof.core (2 * k + 2) s = .next v ∧
        v.block.phase = .receiving ∧ v.out = ⟨none, [.carrierStop, .rxArm], none⟩) ∧
    ∃ u, Host.Core.run Sys2Proof.core (2 * s.block.retry.toNat + 1) s = .next u ∧
      u.block.phase = .idle ∧ u.block.status = .timeout ∧ u.block.retry = 0#8 ∧
      staged u.block = staged s.block ∧ u.inputs = rest ∧ u.out = ⟨some 0x0000#16, [], none⟩

/-- Every step keeps the invariants of R38 on the block's registers, the canonical form of both
memories, and what the environment owes (R38, R37, R111, R115, R116, R117, R118, R134, R167).

For every state s with Inv s, if step s answers next t then Inv t. Inv: I3 (RX_LEN <= RX_MAX once
accepted), I4 and I5 (RX_CNT against RX_LEN by phase), RXV = 1 in a reception, retries only with a
buffer, I6 with R74 (a frame that may still be transmitted has the crc of its payload), the carrier
keyed while transmitting, TXPAY and RXBUF canonical; in Transmitting a TXC is owed and in Receiving
a receive is armed. -/
def Obligations.InvariantIsKeptByEveryStep : Prop :=
  ∀ s t : State, Inv s → step s = .next t → Inv t

/-- The invariant holds after reset, for every configuration and every draw of the unspecified registers
(R39, R240, R241, log 1).

For every configuration p and every draw d whose memories are in canonical form, Inv holds of the
reset state; in particular of State.reset, whose draw is the model's choice (log 1). -/
def Obligations.InvariantHoldsAfterReset : Prop :=
  (∀ (p : Parameters) (d : ResetDraw), Memory.wf d.txpay = true → Memory.wf d.rxbuf = true →
    Inv (State.resetWith p d)) ∧ Inv State.reset

/-- After reset PHASE is Idle, CARRIER is 0, every other register holds its draw, and reset emits
nothing (R240).

For every configuration and every draw of the unspecified registers: PHASE = Idle, CARRIER = 0, each
other register and memory has the drawn value, there is no output action and no receive is armed. -/
def Obligations.ResetLeavesIdleAndTheCarrierOff : Prop :=
  ∀ (p : Parameters) (d : ResetDraw),
    (State.resetWith p d).block =
      { phase := .idle, status := d.status, txLen := d.txLen, txCrc := d.txCrc, txpay := d.txpay,
        rxv := d.rxv, rxMax := d.rxMax, rxCnt := d.rxCnt, rxLen := d.rxLen, rxCrc := d.rxCrc,
        retry := d.retry, deadline := d.deadline, carrier := false, rxbuf := d.rxbuf } ∧
    (State.resetWith p d).out = Output.empty ∧ (State.resetWith p d).env.armed = false ∧
    (State.resetWith p d).env.sending = []

/-- PHASE changes only by a row of the transition table, by the operation that row names (R131).

For every operation and state, if exec answers next t, then either PHASE is unchanged or the
operation and the two phases are those of one of the rows T1 to T11: SEND from Idle to Transmitting,
RECV from Idle to Receiving, POLL out of Receiving or ReceivedAwaitingCrc, TXC out of Transmitting,
RXB out of Receiving, LERR to Idle. -/
def Obligations.PhaseChangesAreRowsOfTheTable : Prop :=
  ∀ (i : Instr) (s t : State), exec i s = .next t → phaseRow i s.block.phase t.block.phase

/-- STATUS changes only in a step that takes PHASE from a non-idle phase to Idle (R23, R191, R214,
R223).

For every step: if STATUS has changed, PHASE was not Idle before and is Idle after. So the latched
status persists through rejected requests, reads, ignored events and the start of the next
operation. -/
def Obligations.StatusIsWrittenOnlyAtTheEndOfAnOperation : Prop :=
  ∀ s t : State, step s = .next t → t.block.status ≠ s.block.status →
    s.block.phase ≠ .idle ∧ t.block.phase = .idle

/-- A rejected request writes no register and no memory and emits nothing; each code comes only from its
request (R80, R212, 92_eei_decisions.md D26).

For every operation: if it answers a response word with REJ = 1, the block, the environment, the
configuration, the draws and the inputs are as before, no action is emitted, the word is 0x0009,
0x000D, 0x000E or 0x000F; 0x0009 only from SEND and RECV, 0x000D only from SEND, 0x000E only from
SEND and from a CRC8 of more than 255 bytes, 0x000F only from a reserved request word. That CRC8 is
rejected is D26, against R212's words; that D26 is followed is the model's reading (log 5). -/
def Obligations.RejectionsChangeNothing : Prop :=
  ∀ (i : Instr) (s t : State) (w : RespWord), exec i s = .next t → t.out.resp = some w →
    w.getLsbD 3 = true →
      t.block = s.block ∧ t.env = s.env ∧ t.params = s.params ∧ t.draws = s.draws ∧
      t.inputs = s.inputs ∧ t.out.actions = [] ∧
      ((w = 0x0009#16 ∧ (isSend i ∨ isRecv i)) ∨ (w = 0x000D#16 ∧ isSend i) ∨
        (w = 0x000E#16 ∧ (isSend i ∨ ∃ p, i = .reqCrc8 p ∧ 255 < p.length)) ∨
        (w = 0x000F#16 ∧ ∃ v, i = .reqReserved v))

/-- No step changes CRC_TABLE or BYTE_TIMEOUT (R10, R17, R53).

For every step, the configuration after it is the configuration before it: the table is constant for
the life of the block. -/
def Obligations.ConfigurationIsNeverWritten : Prop :=
  ∀ s t : State, step s = .next t → t.params = s.params

/-- During an operation RETRY never increases, and it goes down only by one, in the step that starts a
retransmission (R31, R38, R161, R167).

For every step from a phase other than Idle: RETRY is unchanged, or PHASE went from Receiving to
Transmitting and RETRY is one less. -/
def Obligations.RetryIsTakenOnlyByARetransmission : Prop :=
  ∀ s t : State, step s = .next t → s.block.phase ≠ .idle →
    t.block.retry = s.block.retry ∨
      (s.block.phase = .receiving ∧ t.block.phase = .transmitting ∧
        t.block.retry.toNat + 1 = s.block.retry.toNat)

/-- Except by a line fault taken in Transmitting, no operation leaves the carrier on outside
Transmitting; CARRIER follows the carrier actions (R33, R38, R252).

If CARRIER = 1 only in phase Transmitting before an operation that is not a LERR taken in
Transmitting, the same holds after it; a LERR taken in Transmitting leaves CARRIER as it is; and
CARRIER changes only together with CarrierStart or CarrierStop. -/
def Obligations.CarrierIsOnOnlyWhileTransmitting : Prop :=
  ∀ (i : Instr) (s t : State), exec i s = .next t →
    (carrierQuiet s.block → ¬ (i = .evtLerr ∧ s.block.phase = .transmitting) →
      carrierQuiet t.block) ∧
    (i = .evtLerr → t.block.carrier = s.block.carrier) ∧
    (t.block.carrier ≠ s.block.carrier →
      (t.block.carrier = true ∧ .carrierStart ∈ t.out.actions) ∨
        (t.block.carrier = false ∧ .carrierStop ∈ t.out.actions))

/-- The staged frame changes only by a SEND accepted in Idle (or by ENCODE run by itself) (R25, R65).

For every operation, if TX_LEN, TX_CRC or TXPAY has changed, the operation is a SEND (or a facade
operation that is one) taken in Idle, or the internal function ENCODE. Every retransmission
therefore resends the original frame. -/
def Obligations.StagedFrameChangesOnlyBySend : Prop :=
  ∀ (i : Instr) (s t : State), exec i s = .next t →
    t.block.txLen ≠ s.block.txLen ∨ t.block.txCrc ≠ s.block.txCrc ∨ t.block.txpay ≠ s.block.txpay →
      (isSend i ∧ s.block.phase = .idle) ∨ ∃ p, i = .fnEncode p

/-- Every operation keeps TXPAY and RXBUF in canonical form, with every listed address inside the 256
bytes (R50, R51, R52, log 2).

For every operation and state with both memories in canonical form, if exec answers next t then both
are in canonical form in t. The list form and what an unlisted byte reads as are the model's choice
(log 2). -/
def Obligations.MemoriesStayCanonical : Prop :=
  ∀ (i : Instr) (s t : State), exec i s = .next t →
    Memory.wf s.block.txpay = true → Memory.wf s.block.rxbuf = true →
      Memory.wf t.block.txpay = true ∧ Memory.wf t.block.rxbuf = true

/-- Along a run the tick never decreases (R87, R228).

For every step, the tick after it is not below the tick before it; a step with an input has the
input's tick. -/
def Obligations.TicksNeverDecrease : Prop :=
  ∀ s t : State, step s = .next t → s.env.tick.toNat ≤ t.env.tick.toNat ∧
    ∀ x rest, s.inputs = x :: rest → t.env.tick = x.now ∧ t.inputs = rest

/-- The host's write of a byte of RXBUF is carried out in Idle and refused in every other phase (R54).

In Idle the byte is written, every other byte of RXBUF (in canonical form) and every register is
unchanged; in any other phase the step is refused by name. -/
def Obligations.HostWritesRxbufOnlyInIdle : Prop :=
  ∀ (s : State) (now : Tick) (o v : Byte) (rest : List Input),
    s.inputs = ⟨now, .hostWrite o v⟩ :: rest → s.env.tick.toNat ≤ now.toNat →
    Memory.wf s.block.rxbuf = true →
    (s.block.phase = .idle → ∃ t, step s = .next t ∧
      t = { s with
        block := { s.block with rxbuf := t.block.rxbuf }
        env := { s.env with tick := now }, inputs := rest, out := Output.empty } ∧
      ∀ a, Memory.read t.block.rxbuf a = if a = o.toNat then v else Memory.read s.block.rxbuf a) ∧
    (s.block.phase ≠ .idle → step s = .refused .rxbufInUse)

/-- State.reset is the reset at the open parameters and at one draw, whose values are the model's choice
(R39, R241, 92_eei_decisions.md D22).

State.reset is the reset of R240 with the table and the timeout that the source leaves open (log 3)
and with one value for every register that R241 leaves unspecified: STATUS Ok and 0 or nothing
listed elsewhere. The spec gives none of these values; they are the model's choice (log 1). -/
def Obligations.ResetStateIsOneDrawOfTheReset : Prop :=
  State.reset = State.resetWith Config.parameters
    { status := .ok, txLen := 0#8, txCrc := 0#8, txpay := [], rxv := false, rxMax := 0#16,
      rxCnt := 0#9, rxLen := 0#8, rxCrc := 0#8, retry := 0#8, deadline := 0#32, rxbuf := [] }
end

