-- ==== Sys2Proof/Laws/Decode.lean ====
section
/-! SUPPORT. The fields of an encoded word read back, and the patterns as conditions on numbers
(30_encoding.md). -/

namespace Sys2Proof

theorem toNat_append_eq {n m : Nat} (x : BitVec n) (y : BitVec m) :
    (x ++ y).toNat = x.toNat * 2 ^ m + y.toNat := by
  rw [BitVec.toNat_append, ← Nat.shiftLeft_add_eq_or_of_lt y.isLt, Nat.shiftLeft_eq]

/-- A request word as a number: its fields at their places (R76). -/
theorem toNat_requestWord (op : BitVec 4) (e : Bool) (r : Byte) (l m : Len) :
    (requestWord op e r l m).toNat =
      op.toNat + 2 ^ 4 * e.toNat + 2 ^ 8 * r.toNat + 2 ^ 16 * l.toNat + 2 ^ 32 * m.toNat := by
  simp only [requestWord, toNat_append_eq, BitVec.toNat_ofBool]
  simp
  ring

/-- An event word as a number (R82). -/
theorem toNat_eventWord (k : BitVec 2) (b : Byte) :
    (eventWord k b).toNat = b.toNat + 2 ^ 8 * k.toNat := by
  simp only [eventWord, toNat_append_eq]
  simp
  ring

theorem fieldOp_toNat (w : ReqWord) : (fieldOp w).toNat = w.toNat % 16 := by
  simp [fieldOp]

theorem fieldRetry_toNat (w : ReqWord) : (fieldRetry w).toNat = w.toNat / 2 ^ 8 % 2 ^ 8 := by
  simp [fieldRetry, Nat.shiftRight_eq_div_pow]

theorem fieldLen_toNat (w : ReqWord) : (fieldLen w).toNat = w.toNat / 2 ^ 16 % 2 ^ 16 := by
  simp [fieldLen, Nat.shiftRight_eq_div_pow]

theorem fieldRxmax_toNat (w : ReqWord) : (fieldRxmax w).toNat = w.toNat / 2 ^ 32 % 2 ^ 16 := by
  simp [fieldRxmax, Nat.shiftRight_eq_div_pow]

theorem fieldExpect_toNat (w : ReqWord) : (fieldExpect w).toNat = w.toNat / 2 ^ 4 % 2 := by
  simp only [fieldExpect, BitVec.getLsbD, Nat.testBit_eq_decide_div_mod_eq]
  rcases Nat.mod_two_eq_zero_or_one (w.toNat / 2 ^ 4) with h | h <;> rw [h] <;> rfl

theorem fieldData_toNat (w : EvtWord) : (fieldData w).toNat = w.toNat % 2 ^ 8 := by
  simp [fieldData]

@[simp] theorem fieldRetry_requestWord (op : BitVec 4) (e : Bool) (r : Byte) (l m : Len) :
    fieldRetry (requestWord op e r l m) = r := by
  apply BitVec.eq_of_toNat_eq
  rw [fieldRetry_toNat, toNat_requestWord]
  have := op.isLt; have := r.isLt; have := l.isLt; have := m.isLt; have := e.toNat_le
  omega

@[simp] theorem fieldLen_requestWord (op : BitVec 4) (e : Bool) (r : Byte) (l m : Len) :
    fieldLen (requestWord op e r l m) = l := by
  apply BitVec.eq_of_toNat_eq
  rw [fieldLen_toNat, toNat_requestWord]
  have := op.isLt; have := r.isLt; have := l.isLt; have := m.isLt; have := e.toNat_le
  omega

@[simp] theorem fieldRxmax_requestWord (op : BitVec 4) (e : Bool) (r : Byte) (l m : Len) :
    fieldRxmax (requestWord op e r l m) = m := by
  apply BitVec.eq_of_toNat_eq
  rw [fieldRxmax_toNat, toNat_requestWord]
  have := op.isLt; have := r.isLt; have := l.isLt; have := m.isLt; have := e.toNat_le
  omega

@[simp] theorem fieldExpect_requestWord (op : BitVec 4) (e : Bool) (r : Byte) (l m : Len) :
    fieldExpect (requestWord op e r l m) = e := by
  have h := fieldExpect_toNat (requestWord op e r l m)
  rw [toNat_requestWord] at h
  have h2 : (fieldExpect (requestWord op e r l m)).toNat = e.toNat := by
    have := op.isLt; have := r.isLt; have := l.isLt; have := m.isLt; have := e.toNat_le
    omega
  revert h2
  cases fieldExpect (requestWord op e r l m) <;> cases e <;> simp

@[simp] theorem fieldData_eventWord (k : BitVec 2) (b : Byte) : fieldData (eventWord k b) = b := by
  apply BitVec.eq_of_toNat_eq
  rw [fieldData_toNat, toNat_eventWord]
  have := b.isLt; have := k.isLt
  omega

/-- A mask over a request word is a mask over each of its fields (R76, R78). -/
theorem requestWord_and (op om : BitVec 4) (e em : Bool) (r rm : Byte) (l lm m mm : Len) :
    requestWord op e r l m &&&
        (0xFFFF#16 ++ mm ++ lm ++ rm ++ 7#3 ++ BitVec.ofBool em ++ om : ReqWord) =
      requestWord (op &&& om) (e && em) (r &&& rm) (l &&& lm) (m &&& mm) := by
  show (0#16 ++ m ++ l ++ r ++ 0#3 ++ BitVec.ofBool e ++ op : BitVec (16 + 16 + 16 + 8 + 3 + 1 + 4)) &&&
      (0xFFFF#16 ++ mm ++ lm ++ rm ++ 7#3 ++ BitVec.ofBool em ++ om) = _
  rw [BitVec.and_append, BitVec.and_append, BitVec.and_append, BitVec.and_append, BitVec.and_append,
    BitVec.and_append, BitVec.ofBool_and_ofBool, BitVec.zero_and, BitVec.zero_and]
  rfl

theorem requestWord_and_none (op : BitVec 4) (e : Bool) (r : Byte) (l m : Len) :
    requestWord op e r l m &&& 0xFFFFFFFFFFFFFFFF = requestWord op e r l m := by
  refine (requestWord_and op (BitVec.allOnes 4) e true r (BitVec.allOnes 8) l (BitVec.allOnes 16) m (BitVec.allOnes 16)).trans ?_
  simp only [BitVec.and_allOnes, Bool.and_true]

theorem requestWord_and_send (op : BitVec 4) (e : Bool) (r : Byte) (l m : Len) :
    requestWord op e r l m &&& 0xFFFF0000000000EF = requestWord op false 0 0 0 := by
  refine (requestWord_and op (BitVec.allOnes 4) e false r 0#8 l 0#16 m 0#16).trans ?_
  simp only [BitVec.and_allOnes, BitVec.and_zero, Bool.and_false]
  rfl

theorem requestWord_and_recv (op : BitVec 4) (e : Bool) (r : Byte) (l m : Len) :
    requestWord op e r l m &&& 0xFFFF0000FFFFFFFF = requestWord op e r l 0 := by
  refine (requestWord_and op (BitVec.allOnes 4) e true r (BitVec.allOnes 8) l (BitVec.allOnes 16) m 0#16).trans ?_
  simp only [BitVec.and_allOnes, BitVec.and_zero, Bool.and_true]
  rfl

theorem requestWord_and_crc8 (op : BitVec 4) (e : Bool) (r : Byte) (l m : Len) :
    requestWord op e r l m &&& 0xFFFFFFFF0000FFFF = requestWord op e r 0 m := by
  refine (requestWord_and op (BitVec.allOnes 4) e true r (BitVec.allOnes 8) l 0#16 m (BitVec.allOnes 16)).trans ?_
  simp only [BitVec.and_allOnes, BitVec.and_zero, Bool.and_true]
  rfl

/-- Every request word with zero ZERO_A and ZERO_B is the word of its fields (R76). -/
theorem requestWord_fields {w : ReqWord} (ha : w.toNat / 2 ^ 5 % 2 ^ 3 = 0) (hb : w.toNat / 2 ^ 48 = 0) :
    requestWord (fieldOp w) (fieldExpect w) (fieldRetry w) (fieldLen w) (fieldRxmax w) = w := by
  apply BitVec.eq_of_toNat_eq
  rw [toNat_requestWord, fieldOp_toNat, fieldExpect_toNat, fieldRetry_toNat, fieldLen_toNat,
    fieldRxmax_toNat]
  omega

/-- LEN of a payload that fits is its length (R77). -/
theorem toNat_lenOf {payload : List Byte} (h : payload.length < 2 ^ 16) :
    (lenOf payload).toNat = payload.length := by
  rw [lenOf, BitVec.toNat_ofNat]
  exact Nat.mod_eq_of_lt h

/-! ## The selecting patterns (R78, R82) -/

/-- What a masked comparison says of a field that the mask covers. -/
theorem field_of_match {n : Nat} {w m v : BitVec n} (start len : Nat) (h : w &&& m = v)
    (hm : m.extractLsb' start len = BitVec.allOnes len) :
    w.extractLsb' start len = v.extractLsb' start len := by
  rw [← h, BitVec.extractLsb'_and, hm, BitVec.and_allOnes]

/-- A word that matches a row has that row's OP (R78). -/
theorem fieldOp_of_row {r : RequestRow} (hr : r ∈ requestRows) {w : ReqWord}
    (h : w &&& r.mask = r.value) : fieldOp w = fieldOp r.value := by
  have hm : ∀ a ∈ requestRows, a.mask.extractLsb' 0 4 = BitVec.allOnes 4 := by decide
  exact field_of_match 0 4 h (hm r hr)

/-- No two rows of R78 select the same word: their OP fields differ. -/
theorem requestRows_pairwise :
    requestRows.Pairwise (fun a b => fieldOp a.value ≠ fieldOp b.value) := by decide

/-- A word that matches a row of R78 is that request. -/
theorem requestKind_of_row {r : RequestRow} (hr : r ∈ requestRows) {w : ReqWord}
    (h : w &&& r.mask = r.value) : requestKind w = some r.kind := by
  have hf : requestRows.find? (fun a => a.selects w) = some r := by
    rw [List.find?_eq_some_iff_append]
    refine ⟨by simpa [RequestRow.selects] using h, ?_⟩
    obtain ⟨as, bs, hab⟩ := List.append_of_mem hr
    refine ⟨as, bs, hab, fun a ha => ?_⟩
    have hne := (List.pairwise_append.1 (hab ▸ requestRows_pairwise)).2.2 a ha r (by simp)
    have hmem : a ∈ requestRows := by rw [hab]; simp [ha]
    by_contra hs
    have : w &&& a.mask = a.value := by simpa [RequestRow.selects] using hs
    exact hne ((fieldOp_of_row hmem this).symm.trans (fieldOp_of_row hr h))
  simp [requestKind, hf]

/-- A word that is a request matches its row of R78. -/
theorem requestKind_some {w : ReqWord} {kind : RequestKind} (h : requestKind w = some kind) :
    ∃ r ∈ requestRows, r.kind = kind ∧ w &&& r.mask = r.value := by
  obtain ⟨r, hr, hk⟩ := Option.map_eq_some_iff.1 h
  exact ⟨r, List.mem_of_find?_eq_some hr, hk, by simpa [RequestRow.selects] using List.find?_some hr⟩

/-- The reserved request words (R80). -/
theorem requestKind_none {w : ReqWord} :
    requestKind w = none ↔ ∀ r ∈ requestRows, w &&& r.mask ≠ r.value := by
  simp [requestKind, RequestRow.selects]

/-- No two rows of R82 select the same word. -/
theorem eventRows_pairwise :
    eventRows.Pairwise (fun a b => a.value.extractLsb' 8 8 ≠ b.value.extractLsb' 8 8) := by decide

/-- A word that matches a row of R82 is that event. -/
theorem eventKind_of_row {r : EventRow} (hr : r ∈ eventRows) {w : EvtWord}
    (h : w &&& r.mask = r.value) : eventKind w = some r.kind := by
  have hm : ∀ a ∈ eventRows, a.mask.extractLsb' 8 8 = BitVec.allOnes 8 := by decide
  have high : ∀ a ∈ eventRows, w &&& a.mask = a.value →
      w.extractLsb' 8 8 = a.value.extractLsb' 8 8 := fun a ha hs => field_of_match 8 8 hs (hm a ha)
  have hf : eventRows.find? (fun a => a.selects w) = some r := by
    rw [List.find?_eq_some_iff_append]
    refine ⟨by simpa [EventRow.selects] using h, ?_⟩
    obtain ⟨as, bs, hab⟩ := List.append_of_mem hr
    refine ⟨as, bs, hab, fun a ha => ?_⟩
    have hne := (List.pairwise_append.1 (hab ▸ eventRows_pairwise)).2.2 a ha r (by simp)
    have hmem : a ∈ eventRows := by rw [hab]; simp [ha]
    by_contra hs
    have : w &&& a.mask = a.value := by simpa [EventRow.selects] using hs
    exact hne ((high a hmem this).symm.trans (high r hr h))
  simp [eventKind, hf]

/-- A word that is an event matches its row of R82. -/
theorem eventKind_some {w : EvtWord} {kind : EventKind} (h : eventKind w = some kind) :
    ∃ r ∈ eventRows, r.kind = kind ∧ w &&& r.mask = r.value := by
  obtain ⟨r, hr, hk⟩ := Option.map_eq_some_iff.1 h
  exact ⟨r, List.mem_of_find?_eq_some hr, hk, by simpa [EventRow.selects] using List.find?_some hr⟩

/-- The reserved event words (R83). -/
theorem eventKind_none {w : EvtWord} :
    eventKind w = none ↔ ∀ r ∈ eventRows, w &&& r.mask ≠ r.value := by
  simp [eventKind, EventRow.selects]

end Sys2Proof
end

