-- ==== Sys2Proof/Laws/Memory.lean ====
section
/-! SUPPORT. The byte memories: a read after a write, and the canonical form that every write keeps. -/

namespace Sys2Proof.Machine

theorem Memory.wfFrom_cons {lo k : Nat} {v : Byte} {rest : Memory} :
    Memory.wfFrom lo ((k, v) :: rest) = true ↔
      lo ≤ k ∧ k < Config.spaceSize ∧ v ≠ Memory.blank ∧ Memory.wfFrom (k + 1) rest = true := by
  simp [Memory.wfFrom, and_assoc]

theorem Memory.wfFrom_weaken {lo lo' : Nat} {m : Memory} (h : Memory.wfFrom lo m = true)
    (hle : lo' ≤ lo) : Memory.wfFrom lo' m = true := by
  cases m with
  | nil => rfl
  | cons e rest =>
    obtain ⟨k, v⟩ := e
    rw [Memory.wfFrom_cons] at h ⊢
    exact ⟨by omega, h.2⟩

/-- Below its first address a canonical memory reads blank. -/
theorem Memory.read_below {lo a : Nat} {m : Memory} (h : Memory.wfFrom lo m = true) (ha : a < lo) :
    Memory.read m a = Memory.blank := by
  induction m generalizing lo with
  | nil => rfl
  | cons e rest ih =>
    obtain ⟨k, v⟩ := e
    rw [Memory.wfFrom_cons] at h
    rw [Memory.read, if_neg (by omega)]
    exact ih h.2.2.2 (by omega)

theorem Memory.wfFrom_write {lo a : Nat} {v : Byte} {m : Memory} (h : Memory.wfFrom lo m = true)
    (hlo : lo ≤ a) (ha : a < Config.spaceSize) : Memory.wfFrom lo (Memory.write m a v) = true := by
  induction m generalizing lo with
  | nil =>
    rw [Memory.write]
    split
    · rfl
    · exact Memory.wfFrom_cons.2 ⟨hlo, ha, ‹_›, rfl⟩
  | cons e rest ih =>
    obtain ⟨k, x⟩ := e
    have hk := Memory.wfFrom_cons.1 h
    rw [Memory.write]
    split
    · split
      · exact h
      · exact Memory.wfFrom_cons.2 ⟨hlo, ha, ‹_›,
          Memory.wfFrom_cons.2 ⟨by omega, hk.2.1, hk.2.2.1, hk.2.2.2⟩⟩
    · split
      · subst a
        split
        · exact Memory.wfFrom_weaken hk.2.2.2 (by omega)
        · exact Memory.wfFrom_cons.2 ⟨hk.1, ha, ‹_›, hk.2.2.2⟩
      · exact Memory.wfFrom_cons.2 ⟨hk.1, hk.2.1, hk.2.2.1, ih hk.2.2.2 (by omega)⟩

/-- A write inside the space keeps the canonical form. -/
theorem Memory.wf_write {a : Nat} {v : Byte} {m : Memory} (h : Memory.wf m = true)
    (ha : a < Config.spaceSize) : Memory.wf (Memory.write m a v) = true :=
  Memory.wfFrom_write h (Nat.zero_le a) ha

theorem Memory.read_writeFrom {lo a b : Nat} {v : Byte} {m : Memory}
    (h : Memory.wfFrom lo m = true) :
    Memory.read (Memory.write m a v) b = if a = b then v else Memory.read m b := by
  induction m generalizing lo with
  | nil =>
    rw [Memory.write]
    split <;> rename_i hv
    · by_cases hab : a = b
      · rw [if_pos hab, hv]; rfl
      · rw [if_neg hab]
    · rfl
  | cons e rest ih =>
    obtain ⟨k, x⟩ := e
    have hk := Memory.wfFrom_cons.1 h
    rw [Memory.write]
    split
    · split
      · by_cases hab : a = b
        · subst hab
          rw [if_pos rfl, Memory.read_below (lo := k) (Memory.wfFrom_cons.2 ⟨le_refl k, hk.2⟩) (by omega)]
          exact ‹v = Memory.blank›.symm
        · rw [if_neg hab]
      · rfl
    · split
      · subst a
        split
        · by_cases hab : k = b
          · subst hab
            rw [if_pos rfl, Memory.read_below hk.2.2.2 (by omega)]
            exact ‹v = Memory.blank›.symm
          · simp [Memory.read, hab]
        · simp only [Memory.read]; split <;> rfl
      · rw [Memory.read, ih hk.2.2.2, Memory.read]
        by_cases hkb : k = b
        · rw [if_pos hkb, if_pos hkb, if_neg (by omega)]
        · rw [if_neg hkb, if_neg hkb]

/-- A read after a write gives the value written there and the old byte elsewhere. -/
theorem Memory.read_write {a b : Nat} {v : Byte} {m : Memory} (h : Memory.wf m = true) :
    Memory.read (Memory.write m a v) b = if a = b then v else Memory.read m b :=
  Memory.read_writeFrom h

/-- A list written inside the space keeps the canonical form. -/
theorem Memory.wf_writeList {a : Nat} {bytes : List Byte} {m : Memory} (h : Memory.wf m = true)
    (ha : a + bytes.length ≤ Config.spaceSize) : Memory.wf (Memory.writeList m a bytes) = true := by
  induction bytes generalizing a m with
  | nil => exact h
  | cons b rest ih =>
    rw [List.length_cons] at ha
    exact ih (Memory.wf_write h (by omega)) (by omega)

/-- What a memory reads as after a list was written into it. -/
theorem Memory.read_writeList {a b : Nat} {bytes : List Byte} {m : Memory} (h : Memory.wf m = true)
    (ha : a + bytes.length ≤ Config.spaceSize) :
    Memory.read (Memory.writeList m a bytes) b =
      if a ≤ b ∧ b < a + bytes.length then bytes.getD (b - a) 0 else Memory.read m b := by
  induction bytes generalizing a m with
  | nil => rw [if_neg (by simp)]; rfl
  | cons x rest ih =>
    rw [List.length_cons] at ha
    rw [Memory.writeList, ih (Memory.wf_write h (by omega)) (by omega), Memory.read_write h,
      List.length_cons]
    by_cases hab : a = b
    · subst hab
      rw [if_neg (by omega), if_pos rfl, if_pos (by omega)]
      simp
    · rw [if_neg hab]
      by_cases hin : a + 1 ≤ b ∧ b < a + 1 + rest.length
      · rw [if_pos hin, if_pos (by omega)]
        obtain ⟨c, rfl⟩ : ∃ c, b = a + 1 + c := ⟨b - (a + 1), by omega⟩
        rw [show a + 1 + c - (a + 1) = c by omega, show a + 1 + c - a = c + 1 by omega]
        simp
      · rw [if_neg hin, if_neg (by omega)]

theorem Memory.slice_length (m : Memory) (n : Nat) : (Memory.slice m n).length = n := by
  simp [Memory.slice]

/-- The slice that was written is the list written. -/
theorem Memory.slice_writeList {bytes : List Byte} {m : Memory} (h : Memory.wf m = true)
    (ha : bytes.length ≤ Config.spaceSize) :
    Memory.slice (Memory.writeList m 0 bytes) bytes.length = bytes := by
  apply List.ext_getElem (by simp [Memory.slice])
  intro i hi hb
  simp only [Memory.slice, List.getElem_map, List.getElem_range]
  rw [Memory.read_writeList h (by omega), if_pos (by omega)]
  simp [List.getD, hb]

/-- Memories that agree below `n` have the same slice of `n` bytes. -/
theorem Memory.slice_congr {m m' : Memory} {n : Nat}
    (h : ∀ a, a < n → Memory.read m a = Memory.read m' a) : Memory.slice m n = Memory.slice m' n := by
  simp only [Memory.slice]
  exact List.map_congr_left fun a ha => h a (List.mem_range.1 ha)

end Sys2Proof.Machine
end

