-- ==== Sys2Proof/Laws/State.lean ====
section
/-! SUPPORT. What each state update does to each field of State, one lemma per field, so that no proof
unfolds a record update. -/

namespace Sys2Proof.Machine

/-! `quiet` -/

@[simp] theorem quiet_params (s : State) : (quiet s).params = s.params := rfl
@[simp] theorem quiet_block (s : State) : (quiet s).block = s.block := rfl
@[simp] theorem quiet_env (s : State) : (quiet s).env = s.env := rfl
@[simp] theorem quiet_host (s : State) : (quiet s).host = s.host := rfl
@[simp] theorem quiet_draws (s : State) : (quiet s).draws = s.draws := rfl
@[simp] theorem quiet_inputs (s : State) : (quiet s).inputs = s.inputs := rfl
@[simp] theorem quiet_out (s : State) : (quiet s).out = Output.empty := rfl

/-! `latch` -/

@[simp] theorem latch_params (st : Status) (s : State) : (latch st s).params = s.params := rfl
@[simp] theorem latch_block (st : Status) (s : State) : (latch st s).block = { s.block with status := st, phase := .idle } := rfl
@[simp] theorem latch_env (st : Status) (s : State) : (latch st s).env = s.env := rfl
@[simp] theorem latch_host (st : Status) (s : State) : (latch st s).host = s.host := rfl
@[simp] theorem latch_draws (st : Status) (s : State) : (latch st s).draws = s.draws := rfl
@[simp] theorem latch_inputs (st : Status) (s : State) : (latch st s).inputs = s.inputs := rfl
@[simp] theorem latch_out (st : Status) (s : State) : (latch st s).out = s.out := rfl

/-! `respond` -/

@[simp] theorem respond_params (c : Code) (v : Byte) (s : State) : (respond c v s).params = s.params := rfl
@[simp] theorem respond_block (c : Code) (v : Byte) (s : State) : (respond c v s).block = s.block := rfl
@[simp] theorem respond_env (c : Code) (v : Byte) (s : State) : (respond c v s).env = s.env := rfl
@[simp] theorem respond_host (c : Code) (v : Byte) (s : State) : (respond c v s).host = s.host := rfl
@[simp] theorem respond_draws (c : Code) (v : Byte) (s : State) : (respond c v s).draws = s.draws := rfl
@[simp] theorem respond_inputs (c : Code) (v : Byte) (s : State) : (respond c v s).inputs = s.inputs := rfl
@[simp] theorem respond_out (c : Code) (v : Byte) (s : State) : (respond c v s).out = { s.out with resp := some (responseWord false c v) } := rfl

/-! `reject` -/

@[simp] theorem reject_params (c : Code) (s : State) : (reject c s).params = s.params := rfl
@[simp] theorem reject_block (c : Code) (s : State) : (reject c s).block = s.block := rfl
@[simp] theorem reject_env (c : Code) (s : State) : (reject c s).env = s.env := rfl
@[simp] theorem reject_host (c : Code) (s : State) : (reject c s).host = s.host := rfl
@[simp] theorem reject_draws (c : Code) (s : State) : (reject c s).draws = s.draws := rfl
@[simp] theorem reject_inputs (c : Code) (s : State) : (reject c s).inputs = s.inputs := rfl
@[simp] theorem reject_out (c : Code) (s : State) : (reject c s).out = ⟨some (responseWord true c 0), [], none⟩ := rfl

/-! `pushAction` -/

@[simp] theorem pushAction_params (a : Action) (s : State) : (pushAction a s).params = s.params := rfl
@[simp] theorem pushAction_block (a : Action) (s : State) : (pushAction a s).block = s.block := rfl
@[simp] theorem pushAction_env (a : Action) (s : State) : (pushAction a s).env = s.env := rfl
@[simp] theorem pushAction_host (a : Action) (s : State) : (pushAction a s).host = s.host := rfl
@[simp] theorem pushAction_draws (a : Action) (s : State) : (pushAction a s).draws = s.draws := rfl
@[simp] theorem pushAction_inputs (a : Action) (s : State) : (pushAction a s).inputs = s.inputs := rfl
@[simp] theorem pushAction_out (a : Action) (s : State) : (pushAction a s).out = { s.out with actions := s.out.actions ++ [a] } := rfl

/-! `emitCarrierStart` -/

@[simp] theorem emitCarrierStart_params (s : State) : (emitCarrierStart s).params = s.params := rfl
@[simp] theorem emitCarrierStart_block (s : State) : (emitCarrierStart s).block = { s.block with carrier := true } := rfl
@[simp] theorem emitCarrierStart_env (s : State) : (emitCarrierStart s).env = s.env := rfl
@[simp] theorem emitCarrierStart_host (s : State) : (emitCarrierStart s).host = s.host := rfl
@[simp] theorem emitCarrierStart_draws (s : State) : (emitCarrierStart s).draws = s.draws := rfl
@[simp] theorem emitCarrierStart_inputs (s : State) : (emitCarrierStart s).inputs = s.inputs := rfl
@[simp] theorem emitCarrierStart_out (s : State) : (emitCarrierStart s).out = { s.out with actions := s.out.actions ++ [.carrierStart] } := rfl

/-! `emitCarrierStop` -/

@[simp] theorem emitCarrierStop_params (s : State) : (emitCarrierStop s).params = s.params := rfl
@[simp] theorem emitCarrierStop_block (s : State) : (emitCarrierStop s).block = { s.block with carrier := false } := rfl
@[simp] theorem emitCarrierStop_env (s : State) : (emitCarrierStop s).env = s.env := rfl
@[simp] theorem emitCarrierStop_host (s : State) : (emitCarrierStop s).host = s.host := rfl
@[simp] theorem emitCarrierStop_draws (s : State) : (emitCarrierStop s).draws = s.draws := rfl
@[simp] theorem emitCarrierStop_inputs (s : State) : (emitCarrierStop s).inputs = s.inputs := rfl
@[simp] theorem emitCarrierStop_out (s : State) : (emitCarrierStop s).out = { s.out with actions := s.out.actions ++ [.carrierStop] } := rfl

/-! `emitTxStart` -/

@[simp] theorem emitTxStart_params (p : List Byte) (s : State) : (emitTxStart p s).params = s.params := rfl
@[simp] theorem emitTxStart_block (p : List Byte) (s : State) : (emitTxStart p s).block = s.block := rfl
@[simp] theorem emitTxStart_env (p : List Byte) (s : State) : (emitTxStart p s).env = { s.env with sending := s.env.sending ++ [p] } := rfl
@[simp] theorem emitTxStart_host (p : List Byte) (s : State) : (emitTxStart p s).host = s.host := rfl
@[simp] theorem emitTxStart_draws (p : List Byte) (s : State) : (emitTxStart p s).draws = s.draws := rfl
@[simp] theorem emitTxStart_inputs (p : List Byte) (s : State) : (emitTxStart p s).inputs = s.inputs := rfl
@[simp] theorem emitTxStart_out (p : List Byte) (s : State) : (emitTxStart p s).out = { s.out with actions := s.out.actions ++ [.txStart p] } := rfl

/-! `emitRxArm` -/

@[simp] theorem emitRxArm_params (s : State) : (emitRxArm s).params = s.params := rfl
@[simp] theorem emitRxArm_block (s : State) : (emitRxArm s).block = s.block := rfl
@[simp] theorem emitRxArm_env (s : State) : (emitRxArm s).env = { s.env with armed := true } := rfl
@[simp] theorem emitRxArm_host (s : State) : (emitRxArm s).host = s.host := rfl
@[simp] theorem emitRxArm_draws (s : State) : (emitRxArm s).draws = s.draws := rfl
@[simp] theorem emitRxArm_inputs (s : State) : (emitRxArm s).inputs = s.inputs := rfl
@[simp] theorem emitRxArm_out (s : State) : (emitRxArm s).out = { s.out with actions := s.out.actions ++ [.rxArm] } := rfl

/-! `takeTxDone` -/

@[simp] theorem takeTxDone_params (s : State) : (takeTxDone s).params = s.params := rfl
@[simp] theorem takeTxDone_block (s : State) : (takeTxDone s).block = s.block := rfl
@[simp] theorem takeTxDone_env (s : State) : (takeTxDone s).env = { s.env with sending := s.env.sending.tail } := rfl
@[simp] theorem takeTxDone_host (s : State) : (takeTxDone s).host = s.host := rfl
@[simp] theorem takeTxDone_draws (s : State) : (takeTxDone s).draws = s.draws := rfl
@[simp] theorem takeTxDone_inputs (s : State) : (takeTxDone s).inputs = s.inputs := rfl
@[simp] theorem takeTxDone_out (s : State) : (takeTxDone s).out = s.out := rfl

/-! `takeReceived` -/

@[simp] theorem takeReceived_params (s : State) : (takeReceived s).params = s.params := rfl
@[simp] theorem takeReceived_block (s : State) : (takeReceived s).block = s.block := rfl
@[simp] theorem takeReceived_env (s : State) : (takeReceived s).env = { s.env with armed := false } := rfl
@[simp] theorem takeReceived_host (s : State) : (takeReceived s).host = s.host := rfl
@[simp] theorem takeReceived_draws (s : State) : (takeReceived s).draws = s.draws := rfl
@[simp] theorem takeReceived_inputs (s : State) : (takeReceived s).inputs = s.inputs := rfl
@[simp] theorem takeReceived_out (s : State) : (takeReceived s).out = s.out := rfl

/-! `present` -/

@[simp] theorem present_params (x : Input) (r : List Input) (s : State) : (present x r s).params = s.params := rfl
@[simp] theorem present_block (x : Input) (r : List Input) (s : State) : (present x r s).block = s.block := rfl
@[simp] theorem present_env (x : Input) (r : List Input) (s : State) : (present x r s).env = { s.env with tick := x.now } := rfl
@[simp] theorem present_host (x : Input) (r : List Input) (s : State) : (present x r s).host = s.host := rfl
@[simp] theorem present_draws (x : Input) (r : List Input) (s : State) : (present x r s).draws = s.draws := rfl
@[simp] theorem present_inputs (x : Input) (r : List Input) (s : State) : (present x r s).inputs = r := rfl
@[simp] theorem present_out (x : Input) (r : List Input) (s : State) : (present x r s).out = Output.empty := rfl

/-! `atLine` -/

@[simp] theorem atLine_params (l : Routine) (s : State) : (atLine l s).params = s.params := rfl
@[simp] theorem atLine_block (l : Routine) (s : State) : (atLine l s).block = s.block := rfl
@[simp] theorem atLine_env (l : Routine) (s : State) : (atLine l s).env = s.env := rfl
@[simp] theorem atLine_host (l : Routine) (s : State) : (atLine l s).host = { s.host with calls := l :: s.host.calls.tail } := rfl
@[simp] theorem atLine_draws (l : Routine) (s : State) : (atLine l s).draws = s.draws := rfl
@[simp] theorem atLine_inputs (l : Routine) (s : State) : (atLine l s).inputs = s.inputs := rfl
@[simp] theorem atLine_out (l : Routine) (s : State) : (atLine l s).out = s.out := rfl

/-! `returns` -/

@[simp] theorem returns_params (r : CallResult) (s : State) : (returns r s).params = s.params := rfl
@[simp] theorem returns_block (r : CallResult) (s : State) : (returns r s).block = s.block := rfl
@[simp] theorem returns_env (r : CallResult) (s : State) : (returns r s).env = s.env := rfl
@[simp] theorem returns_host (r : CallResult) (s : State) : (returns r s).host = ⟨s.host.calls.tail, some r⟩ := rfl
@[simp] theorem returns_draws (r : CallResult) (s : State) : (returns r s).draws = s.draws := rfl
@[simp] theorem returns_inputs (r : CallResult) (s : State) : (returns r s).inputs = s.inputs := rfl
@[simp] theorem returns_out (r : CallResult) (s : State) : (returns r s).out = s.out := rfl

/-! `enter` -/

@[simp] theorem enter_params (l : Routine) (s : State) : (enter l s).params = s.params := rfl
@[simp] theorem enter_block (l : Routine) (s : State) : (enter l s).block = s.block := rfl
@[simp] theorem enter_env (l : Routine) (s : State) : (enter l s).env = s.env := rfl
@[simp] theorem enter_host (l : Routine) (s : State) : (enter l s).host = { s.host with calls := l :: s.host.calls } := rfl
@[simp] theorem enter_draws (l : Routine) (s : State) : (enter l s).draws = s.draws := rfl
@[simp] theorem enter_inputs (l : Routine) (s : State) : (enter l s).inputs = s.inputs := rfl
@[simp] theorem enter_out (l : Routine) (s : State) : (enter l s).out = s.out := rfl

end Sys2Proof.Machine
end

