-- ==== Sys2Proof/Laws/Ops.lean ====
section
/-! SUPPORT. For each shared operation, once, everything it can do. -/

namespace Sys2Proof.Machine

/-! ## Sequencing and the response word -/

theorem thenState_next {r : Result} {f : State → State} {t : State} :
    thenState r f = .next t ↔ ∃ u, r = .next u ∧ t = f u := by
  cases r <;> simp [thenState, eq_comm]

theorem thenState_fault {r : Result} {f : State → State} {e : Fault} :
    thenState r f = .fault e ↔ r = .fault e := by
  cases r <;> simp [thenState]

theorem thenState_refused {r : Result} {f : State → State} {e : Refusal} :
    thenState r f = .refused e ↔ r = .refused e := by
  cases r <;> simp [thenState]

@[simp] theorem respCode_responseWord (r : Bool) (c : Code) (v : Byte) :
    respCode (responseWord r c v) = c.bits := by
  cases r <;> cases c <;> revert v <;> decide

@[simp] theorem respRej_responseWord (r : Bool) (c : Code) (v : Byte) :
    respRej (responseWord r c v) = r := by
  cases r <;> cases c <;> revert v <;> decide

@[simp] theorem respValue_responseWord (r : Bool) (c : Code) (v : Byte) :
    respValue (responseWord r c v) = v := by
  cases r <;> cases c <;> revert v <;> decide

theorem Code.bits_inj {c d : Code} (h : c.bits = d.bits) : c = d := by
  cases c <;> cases d <;> first | rfl | exact absurd h (by decide)

/-! ## The deadline -/

theorem deadlineFor_some {now timeout d : Tick} :
    deadlineFor now timeout = some d ↔ now.toNat + timeout.toNat < 2 ^ 32 ∧ d = now + timeout := by
  simp only [deadlineFor]
  split <;> simp_all [eq_comm]

theorem deadlineFor_none {now timeout : Tick} :
    deadlineFor now timeout = none ↔ 2 ^ 32 ≤ now.toNat + timeout.toNat := by
  simp [deadlineFor]

/-- `refresh_deadline` where the sum fits (R162, R163). -/
theorem refreshDeadline_fits {s : State}
    (h : s.env.tick.toNat + s.params.byteTimeout.toNat < 2 ^ 32) :
    refreshDeadline s =
      .next { s with block := { s.block with deadline := s.env.tick + s.params.byteTimeout } } := by
  rw [refreshDeadline, deadlineFor_some.2 ⟨h, rfl⟩]

/-- `refresh_deadline` where the sum does not fit (R163). -/
theorem refreshDeadline_beyond {s : State}
    (h : 2 ^ 32 ≤ s.env.tick.toNat + s.params.byteTimeout.toNat) :
    refreshDeadline s = .refused .deadlineOutOfRange := by
  rw [refreshDeadline, deadlineFor_none.2 h]

/-- Everything `refresh_deadline` can do. -/
theorem refreshDeadline_cases (s : State) :
    (s.env.tick.toNat + s.params.byteTimeout.toNat < 2 ^ 32 ∧ refreshDeadline s =
      .next { s with block := { s.block with deadline := s.env.tick + s.params.byteTimeout } }) ∨
    (2 ^ 32 ≤ s.env.tick.toNat + s.params.byteTimeout.toNat ∧
      refreshDeadline s = .refused .deadlineOutOfRange) := by
  rcases Nat.lt_or_ge (s.env.tick.toNat + s.params.byteTimeout.toNat) (2 ^ 32) with h | h
  · exact .inl ⟨h, refreshDeadline_fits h⟩
  · exact .inr ⟨h, refreshDeadline_beyond h⟩

/-- Everything `arm_reception` can do (R134, R163). -/
theorem armReception_cases (s : State) :
    (s.env.tick.toNat + s.params.byteTimeout.toNat < 2 ^ 32 ∧ armReception s =
      .next (emitRxArm { s with
        block := { s.block with rxCnt := 0#9, deadline := s.env.tick + s.params.byteTimeout } })) ∨
    (2 ^ 32 ≤ s.env.tick.toNat + s.params.byteTimeout.toNat ∧
      armReception s = .refused .deadlineOutOfRange) := by
  rcases refreshDeadline_cases { s with block := { s.block with rxCnt := 0#9 } } with ⟨h, e⟩ | ⟨h, e⟩
  · exact .inl ⟨h, by rw [armReception, e]; rfl⟩
  · exact .inr ⟨h, by rw [armReception, e]; rfl⟩

/-! ## The packet framer -/

/-- The frame that ENCODE stages is the payload's wire frame (R111, R71). -/
theorem staged_encodeFrame {table : Vector Byte 256} {payload : List Byte} {k : Block}
    (hw : Memory.wf k.txpay = true) (hl : payload.length ≤ Config.maxLen) :
    staged (encodeFrame table payload k) = frameBytes (crc8 table payload) payload := by
  have h255 : payload.length < 256 := Nat.lt_succ_of_le hl
  have hlen : (BitVec.ofNat 8 payload.length).toNat = payload.length := by
    rw [BitVec.toNat_ofNat]; exact Nat.mod_eq_of_lt h255
  simp only [staged, stagedPayload, encodeFrame, frameBytes, hlen]
  rw [Memory.slice_writeList hw (Nat.le_of_lt h255)]

theorem stagedPayload_encodeFrame {table : Vector Byte 256} {payload : List Byte} {k : Block}
    (hw : Memory.wf k.txpay = true) (hl : payload.length ≤ Config.maxLen) :
    stagedPayload (encodeFrame table payload k) = payload := by
  have h255 : payload.length < 256 := Nat.lt_succ_of_le hl
  have hlen : (BitVec.ofNat 8 payload.length).toNat = payload.length := by
    rw [BitVec.toNat_ofNat]; exact Nat.mod_eq_of_lt h255
  simp only [stagedPayload, encodeFrame, hlen]
  exact Memory.slice_writeList hw (Nat.le_of_lt h255)

/-- Everything DECODE_STEP can do (R112 to R118). -/
theorem decodeStep_cases (b : Byte) (k : Block) :
    (k.rxCnt = 0#9 ∧ b = Config.magic ∧ decodeStep b k = (.cont, { k with rxCnt := 1#9 })) ∨
    (k.rxCnt = 0#9 ∧ b ≠ Config.magic ∧ decodeStep b k = (.cont, k)) ∨
    (k.rxCnt = 1#9 ∧ k.rxMax.toNat < b.toNat ∧ decodeStep b k = (.error, k)) ∨
    (k.rxCnt = 1#9 ∧ b.toNat ≤ k.rxMax.toNat ∧
      decodeStep b k = (.cont, { k with rxLen := b, rxCnt := 2#9 })) ∨
    (k.rxCnt = 2#9 ∧ decodeStep b k =
      (if k.rxLen = 0#8 then .complete else .cont, { k with rxCrc := b, rxCnt := 3#9 })) ∨
    (3 ≤ k.rxCnt.toNat ∧ k.rxCnt.toNat < 3 + k.rxLen.toNat ∧ decodeStep b k =
      (if k.rxCnt.toNat + 1 = 3 + k.rxLen.toNat then .complete else .cont,
        { k with rxbuf := Memory.write k.rxbuf (k.rxCnt.toNat - 3) b, rxCnt := k.rxCnt + 1#9 })) ∨
    (3 ≤ k.rxCnt.toNat ∧ 3 + k.rxLen.toNat ≤ k.rxCnt.toNat ∧ decodeStep b k = (.error, k)) := by
  by_cases h0 : k.rxCnt = 0#9
  · by_cases hb : b = Config.magic
    · exact .inl ⟨h0, hb, by simp [decodeStep, h0, hb]⟩
    · exact .inr (.inl ⟨h0, hb, by simp [decodeStep, h0, hb]⟩)
  by_cases h1 : k.rxCnt = 1#9
  · have hz : (b.setWidth 16).toNat = b.toNat := by
      rw [BitVec.toNat_setWidth]; exact Nat.mod_eq_of_lt (by have := b.isLt; omega)
    by_cases hm : k.rxMax < b.setWidth 16
    · refine .inr (.inr (.inl ⟨h1, ?_, by simp [decodeStep, h1, hm]⟩))
      rw [BitVec.lt_def, hz] at hm; exact hm
    · refine .inr (.inr (.inr (.inl ⟨h1, ?_, by simp [decodeStep, h1, hm]⟩)))
      rw [BitVec.lt_def, hz] at hm; omega
  by_cases h2 : k.rxCnt = 2#9
  · exact .inr (.inr (.inr (.inr (.inl ⟨h2, by simp [decodeStep, h2]⟩))))
  have h3 : 3 ≤ k.rxCnt.toNat := by
    have e0 : k.rxCnt.toNat ≠ 0 := fun h => h0 (BitVec.eq_of_toNat_eq h)
    have e1 : k.rxCnt.toNat ≠ 1 := fun h => h1 (BitVec.eq_of_toNat_eq h)
    have e2 : k.rxCnt.toNat ≠ 2 := fun h => h2 (BitVec.eq_of_toNat_eq h)
    omega
  by_cases hp : k.rxCnt.toNat < 3 + k.rxLen.toNat
  · exact .inr (.inr (.inr (.inr (.inr (.inl ⟨h3, hp, by
      rw [decodeStep, if_neg h0, if_neg h1, if_neg h2,
        if_pos (show k.rxCnt.toNat < Config.hdrLen + k.rxLen.toNat from hp)]; rfl⟩)))))
  · exact .inr (.inr (.inr (.inr (.inr (.inr ⟨h3, by omega, by
      rw [decodeStep, if_neg h0, if_neg h1, if_neg h2,
        if_neg (show ¬k.rxCnt.toNat < Config.hdrLen + k.rxLen.toNat from hp)]⟩)))))

/-- What DECODE_STEP never writes (R112). -/
theorem decodeStep_frame (b : Byte) (k : Block) :
    (decodeStep b k).2 =
      { k with
        rxCnt := (decodeStep b k).2.rxCnt, rxLen := (decodeStep b k).2.rxLen
        rxCrc := (decodeStep b k).2.rxCrc, rxbuf := (decodeStep b k).2.rxbuf } := by
  rcases decodeStep_cases b k with h | h | h | h | h | h | h
  · rw [h.2.2]
  · rw [h.2.2]
  · rw [h.2.2]
  · rw [h.2.2]
  · rw [h.2]
  · rw [h.2.2]
  · rw [h.2.2]

/-- DECODE_STEP keeps RXBUF canonical: its writes are inside the space (R119). -/
theorem decodeStep_wf {b : Byte} {k : Block} (h : Memory.wf k.rxbuf = true) :
    Memory.wf (decodeStep b k).2.rxbuf = true := by
  rcases decodeStep_cases b k with e | e | e | e | e | e | e
  · rw [e.2.2]; exact h
  · rw [e.2.2]; exact h
  · rw [e.2.2]; exact h
  · rw [e.2.2]; exact h
  · rw [e.2]; exact h
  · rw [e.2.2]
    refine Memory.wf_write h ?_
    have := k.rxLen.isLt
    have h3 := e.2.1
    show k.rxCnt.toNat - 3 < 256
    omega
  · rw [e.2.2]; exact h

/-! ## POLL -/

/-- Everything the CRC check can do (R170). -/
theorem crcCheck_cases (s : State) :
    (crc8 s.params.crcTable (receivedPayload s.block) = s.block.rxCrc ∧ crcCheck s = latch .ok s) ∨
    (crc8 s.params.crcTable (receivedPayload s.block) ≠ s.block.rxCrc ∧
      crcCheck s = latch .crcError s) := by
  by_cases h : crc8 s.params.crcTable (receivedPayload s.block) = s.block.rxCrc
  · exact .inl ⟨h, by rw [crcCheck, if_pos h]⟩
  · exact .inr ⟨h, by rw [crcCheck, if_neg h]⟩

/-- Everything POLL can do to the block (R164). -/
theorem pollBlock_cases (s : State) :
    ((s.block.phase = .idle ∨ s.block.phase = .transmitting) ∧ pollBlock s = s) ∨
    (s.block.phase = .receiving ∧ s.env.tick.toNat ≤ s.block.deadline.toNat ∧ pollBlock s = s) ∨
    (s.block.phase = .receiving ∧ s.block.deadline.toNat < s.env.tick.toNat ∧ s.block.retry ≠ 0#8 ∧
      pollBlock s = retransmit s) ∨
    (s.block.phase = .receiving ∧ s.block.deadline.toNat < s.env.tick.toNat ∧ s.block.retry = 0#8 ∧
      pollBlock s = latch .timeout s) ∨
    (s.block.phase = .receivedAwaitingCrc ∧ pollBlock s = crcCheck s) := by
  cases hp : s.block.phase
  · exact .inl ⟨.inl rfl, by simp [pollBlock, hp]⟩
  · exact .inl ⟨.inr rfl, by simp [pollBlock, hp]⟩
  · by_cases hd : s.block.deadline < s.env.tick
    · have hd' := BitVec.lt_def.1 hd
      by_cases hr : s.block.retry = 0#8
      · exact .inr (.inr (.inr (.inl ⟨rfl, hd', hr, by simp [pollBlock, hp, elapsed, hd, hr]⟩)))
      · exact .inr (.inr (.inl ⟨rfl, hd', hr, by simp [pollBlock, hp, elapsed, hd, hr]⟩))
    · have hd' : ¬ s.block.deadline.toNat < s.env.tick.toNat := fun h => hd (BitVec.lt_def.2 h)
      exact .inr (.inl ⟨rfl, by omega, by simp [pollBlock, hp, elapsed, hd]⟩)
  · exact .inr (.inr (.inr (.inr ⟨rfl, by simp [pollBlock, hp]⟩)))

/-! ## SEND and RECV -/

/-- Everything SEND can do (R181 to R183). -/
theorem startSend_cases (e : Bool) (r : Byte) (m : Len) (p : List Byte) (s : State) :
    (∃ c, sendReason e r p s.block = some c ∧ startSend e r m p s = reject c s) ∨
    (s.block.phase = .idle ∧ (e = true ∨ r = 0#8) ∧ p.length ≤ Config.maxLen ∧
      startSend e r m p s = respond .ok 0#8 (sendEffects e r m p (quiet s))) := by
  cases h : sendReason e r p s.block with
  | some c => exact .inl ⟨c, rfl, by simp only [startSend, h]⟩
  | none =>
    refine .inr ?_
    simp only [sendReason] at h
    split at h
    · cases h
    split at h
    · cases h
    split at h
    · cases h
    refine ⟨by simpa using ‹¬s.block.phase ≠ .idle›, ?_, by omega, ?_⟩
    · cases e
      · exact .inr (by simpa using ‹¬(false = false ∧ r ≠ 0#8)›)
      · exact .inl rfl
    · have hn : sendReason e r p s.block = none := by
        rw [sendReason, if_neg ‹_›, if_neg ‹_›, if_neg ‹_›]
      simp only [startSend, hn]

/-- The code of a rejected SEND is one of three (R182). -/
theorem sendReason_code {e : Bool} {r : Byte} {p : List Byte} {k : Block} {c : Code}
    (h : sendReason e r p k = some c) :
    (c = .busy ∧ k.phase ≠ .idle) ∨ (c = .invalidArgument ∧ k.phase = .idle) ∨
      (c = .lengthError ∧ k.phase = .idle) := by
  simp only [sendReason] at h
  split at h
  · cases h; exact .inl ⟨rfl, ‹_›⟩
  have hp : k.phase = .idle := by simpa using ‹¬k.phase ≠ .idle›
  split at h
  · cases h; exact .inr (.inl ⟨rfl, hp⟩)
  split at h
  · cases h; exact .inr (.inr ⟨rfl, hp⟩)
  · cases h

/-- Everything RECV can do (R185, R186, R163). -/
theorem startRecv_cases (m : Len) (s : State) :
    (s.block.phase ≠ .idle ∧ startRecv m s = .next (reject .busy s)) ∨
    (s.block.phase = .idle ∧ s.env.tick.toNat + s.params.byteTimeout.toNat < 2 ^ 32 ∧
      startRecv m s = .next (respond .ok 0#8 (emitRxArm { quiet s with
        block := { s.block with
          rxv := true, rxMax := m, retry := 0#8, phase := .receiving, rxCnt := 0#9,
          deadline := s.env.tick + s.params.byteTimeout } }))) ∨
    (s.block.phase = .idle ∧ 2 ^ 32 ≤ s.env.tick.toNat + s.params.byteTimeout.toNat ∧
      startRecv m s = .refused .deadlineOutOfRange) := by
  by_cases hp : s.block.phase = .idle
  · rcases armReception_cases { quiet s with
        block := { s.block with rxv := true, rxMax := m, retry := 0#8, phase := .receiving } } with
      ⟨h, e⟩ | ⟨h, e⟩
    · refine .inr (.inl ⟨hp, h, ?_⟩)
      rw [startRecv, if_neg (by simp [hp])]
      exact congrArg (thenState · (respond .ok 0#8)) e
    · refine .inr (.inr ⟨hp, h, ?_⟩)
      rw [startRecv, if_neg (by simp [hp])]
      exact congrArg (thenState · (respond .ok 0#8)) e
  · exact .inl ⟨hp, by rw [startRecv, if_pos hp]⟩

/-! ## Events -/

/-- Everything TXC can do (R133, R134, R141, R163). -/
theorem txDone_cases (s : State) :
    (s.block.phase ≠ .transmitting ∧ txDone s = .next (takeTxDone (quiet s))) ∨
    (s.block.phase = .transmitting ∧ s.block.rxv = false ∧
      txDone s = .next (latch .ok (emitCarrierStop (takeTxDone (quiet s))))) ∨
    (s.block.phase = .transmitting ∧ s.block.rxv = true ∧
      s.env.tick.toNat + s.params.byteTimeout.toNat < 2 ^ 32 ∧
      txDone s = .next (emitRxArm { emitCarrierStop (takeTxDone (quiet s)) with
        block := { s.block with
          carrier := false, phase := .receiving, rxCnt := 0#9,
          deadline := s.env.tick + s.params.byteTimeout } })) ∨
    (s.block.phase = .transmitting ∧ s.block.rxv = true ∧
      2 ^ 32 ≤ s.env.tick.toNat + s.params.byteTimeout.toNat ∧
      txDone s = .refused .deadlineOutOfRange) := by
  by_cases hp : s.block.phase = .transmitting
  · by_cases hv : s.block.rxv = true
    · have ht : txDone s = armReception { emitCarrierStop (takeTxDone (quiet s)) with
          block := { s.block with carrier := false, phase := .receiving } } := by
        simp only [txDone]
        rw [if_pos (show (takeTxDone (quiet s)).block.phase = .transmitting from hp),
          if_pos (show (emitCarrierStop (takeTxDone (quiet s))).block.rxv = true from hv)]
        rfl
      rcases armReception_cases { emitCarrierStop (takeTxDone (quiet s)) with
          block := { s.block with carrier := false, phase := .receiving } } with ⟨h, e⟩ | ⟨h, e⟩
      · exact .inr (.inr (.inl ⟨hp, hv, h, ht.trans e⟩))
      · exact .inr (.inr (.inr ⟨hp, hv, h, ht.trans e⟩))
    · exact .inr (.inl ⟨hp, by simpa using hv, by simp [txDone, hp, hv]⟩)
  · exact .inl ⟨hp, by simp [txDone, hp]⟩

/-- Everything RXB can do (R136, R137, R141, R163). -/
theorem byteReceived_cases (b : Byte) (s : State) :
    (s.block.phase ≠ .receiving ∧ byteReceived b s = .next (takeReceived (quiet s))) ∨
    (s.block.phase = .receiving ∧ (decodeStep b s.block).1 = .cont ∧
      s.env.tick.toNat + s.params.byteTimeout.toNat < 2 ^ 32 ∧
      byteReceived b s = .next (emitRxArm { takeReceived (quiet s) with
        block := { (decodeStep b s.block).2 with
          deadline := s.env.tick + s.params.byteTimeout } })) ∨
    (s.block.phase = .receiving ∧ (decodeStep b s.block).1 = .cont ∧
      2 ^ 32 ≤ s.env.tick.toNat + s.params.byteTimeout.toNat ∧
      byteReceived b s = .refused .deadlineOutOfRange) ∨
    (s.block.phase = .receiving ∧ (decodeStep b s.block).1 = .error ∧
      byteReceived b s =
        .next (latch .error { takeReceived (quiet s) with block := (decodeStep b s.block).2 })) ∨
    (s.block.phase = .receiving ∧ (decodeStep b s.block).1 = .complete ∧
      byteReceived b s = .next { takeReceived (quiet s) with
        block := { (decodeStep b s.block).2 with phase := .receivedAwaitingCrc } }) := by
  by_cases hp : s.block.phase = .receiving
  · have hb : byteReceived b s = afterDecode (decodeStep b s.block).1
        { takeReceived (quiet s) with block := (decodeStep b s.block).2 } := by
      simp [byteReceived, hp]
    cases ha : (decodeStep b s.block).1
    · rw [ha] at hb
      rcases refreshDeadline_cases
        { takeReceived (quiet s) with block := (decodeStep b s.block).2 } with ⟨h, e⟩ | ⟨h, e⟩
      · exact .inr (.inl ⟨hp, rfl, h, by rw [hb, afterDecode, e]; rfl⟩)
      · exact .inr (.inr (.inl ⟨hp, rfl, h, by rw [hb, afterDecode, e]; rfl⟩))
    · exact .inr (.inr (.inr (.inl ⟨hp, rfl, by rw [hb, ha]; rfl⟩)))
    · exact .inr (.inr (.inr (.inr ⟨hp, rfl, by rw [hb, ha]; rfl⟩)))
  · exact .inl ⟨hp, by simp [byteReceived, hp]⟩

/-- Everything LERR can do (R139, R141). -/
theorem lineFault_cases (s : State) :
    (s.block.phase = .idle ∧ lineFault s = takeReceived (quiet s)) ∨
    (s.block.phase ≠ .idle ∧ lineFault s = latch .error (takeReceived (quiet s))) := by
  by_cases hp : s.block.phase = .idle
  · exact .inl ⟨hp, by simp [lineFault, hp]⟩
  · exact .inr ⟨hp, by simp [lineFault, hp]⟩

/-- Everything the request CRC8 can do (R103, D26). -/
theorem crcRequest_cases (p : List Byte) (s : State) :
    (Config.maxLen < p.length ∧ crcRequest p s = reject .lengthError s) ∨
    (p.length ≤ Config.maxLen ∧
      crcRequest p s = respond .ok (crc8 s.params.crcTable p) (quiet s)) := by
  by_cases h : Config.maxLen < p.length
  · exact .inl ⟨h, if_pos h⟩
  · exact .inr ⟨Nat.not_lt.1 h, if_neg h⟩

/-- Everything GET_RXLEN can do (R190). -/
theorem readRxlen_cases (s : State) :
    (rxlenValid s.block = true ∧ readRxlen s = respond .ok s.block.rxLen (quiet s)) ∨
    (rxlenValid s.block = false ∧ readRxlen s =
      respond .ok (Config.freeRxlen s.draws) { quiet s with draws := s.draws + 1 }) := by
  cases h : rxlenValid s.block
  · exact .inr ⟨rfl, by simp [readRxlen, h]⟩
  · exact .inl ⟨rfl, by simp [readRxlen, h]⟩

end Sys2Proof.Machine
end

