-- ==== Sys2Proof/Laws/Exec.lean ====
section
/-! SUPPORT. Everything an operation can do, once, and everything a step can do, once: statements about
all operations are case analyses of `Effect`, statements about all steps of `step_cases`. -/

namespace Sys2Proof.Machine

open Sys2Proof.Safety

/-- The effects of the operations on everything but the host's routines. -/
inductive Effect (i : Instr) (s : State) : State → Prop where
  /-- Only the output is written: no action, and a rejection only by the requests that have one. -/
  | answered (o : Output) (noAction : o.actions = [])
      (rejection : ∀ w, o.resp = some w → respRej w = true →
        (w = 0x0009#16 ∧ (isSend i ∨ isRecv i)) ∨ (w = 0x000D#16 ∧ isSend i) ∨
          (w = 0x000E#16 ∧ (isSend i ∨ ∃ p, i = .reqCrc8 p ∧ Config.maxLen < p.length)) ∨
          (w = 0x000F#16 ∧ ∃ v, i = .reqReserved v)) :
      Effect i s { s with out := o }
  /-- GET_RXLEN when it is not valid (R190). -/
  | freeLength (core : i.core = .reqGetRxlen) :
      Effect i s (respond .ok (Config.freeRxlen s.draws) { quiet s with draws := s.draws + 1 })
  /-- An accepted SEND (R183). -/
  | sent (e : Bool) (r : Byte) (m : Len) (p : List Byte) (send : isSend i)
      (idle : s.block.phase = .idle) (legal : e = true ∨ r = 0#8) (short : p.length ≤ Config.maxLen) :
      Effect i s (respond .ok 0#8 (sendEffects e r m p (quiet s)))
  /-- An accepted RECV (R185). -/
  | opened (m : Len) (recv : isRecv i) (idle : s.block.phase = .idle)
      (fits : s.env.tick.toNat + s.params.byteTimeout.toNat < 2 ^ 32) :
      Effect i s (respond .ok 0#8 (emitRxArm { quiet s with
        block := { s.block with
          rxv := true, rxMax := m, retry := 0#8, phase := .receiving, rxCnt := 0#9,
          deadline := s.env.tick + s.params.byteTimeout } }))
  /-- POLL retransmits (R167). -/
  | retransmitted (core : i.core = .reqPoll) (receiving : s.block.phase = .receiving)
      (late : s.block.deadline.toNat < s.env.tick.toNat) (left : s.block.retry ≠ 0#8) :
      Effect i s (respond .ok 0#8 (retransmit (quiet s)))
  /-- POLL gives up (R168). -/
  | timedOut (core : i.core = .reqPoll) (receiving : s.block.phase = .receiving)
      (late : s.block.deadline.toNat < s.env.tick.toNat) (none : s.block.retry = 0#8) :
      Effect i s (respond .ok 0#8 (latch .timeout (quiet s)))
  /-- POLL checks a complete frame (R170). -/
  | checked (st : Status) (core : i.core = .reqPoll) (complete : s.block.phase = .receivedAwaitingCrc) :
      Effect i s (respond .ok 0#8 (latch st (quiet s)))
  /-- TXC outside `Transmitting` (R141). -/
  | txIgnored (op : i = .evtTxc) (other : s.block.phase ≠ .transmitting) :
      Effect i s (takeTxDone (quiet s))
  /-- TXC with no reply expected (R133). -/
  | txOk (op : i = .evtTxc) (sending : s.block.phase = .transmitting) (alone : s.block.rxv = false) :
      Effect i s (latch .ok (emitCarrierStop (takeTxDone (quiet s))))
  /-- TXC with a reply expected (R133, R134). -/
  | txReply (op : i = .evtTxc) (sending : s.block.phase = .transmitting) (reply : s.block.rxv = true)
      (fits : s.env.tick.toNat + s.params.byteTimeout.toNat < 2 ^ 32) :
      Effect i s (emitRxArm { emitCarrierStop (takeTxDone (quiet s)) with
        block := { s.block with
          carrier := false, phase := .receiving, rxCnt := 0#9,
          deadline := s.env.tick + s.params.byteTimeout } })
  /-- RXB outside `Receiving` (R141). -/
  | rxIgnored (b : Byte) (op : i = .evtRxb b) (other : s.block.phase ≠ .receiving) :
      Effect i s (takeReceived (quiet s))
  /-- RXB after which the reception goes on (R137). -/
  | rxContinued (b : Byte) (op : i = .evtRxb b) (receiving : s.block.phase = .receiving)
      (answer : (decodeStep b s.block).1 = .cont)
      (fits : s.env.tick.toNat + s.params.byteTimeout.toNat < 2 ^ 32) :
      Effect i s (emitRxArm { takeReceived (quiet s) with
        block := { (decodeStep b s.block).2 with deadline := s.env.tick + s.params.byteTimeout } })
  /-- RXB of a bad length (R137). -/
  | rxFailed (b : Byte) (op : i = .evtRxb b) (receiving : s.block.phase = .receiving)
      (answer : (decodeStep b s.block).1 = .error) :
      Effect i s (latch .error { takeReceived (quiet s) with block := (decodeStep b s.block).2 })
  /-- RXB that completes the frame (R137). -/
  | rxCompleted (b : Byte) (op : i = .evtRxb b) (receiving : s.block.phase = .receiving)
      (answer : (decodeStep b s.block).1 = .complete) :
      Effect i s { takeReceived (quiet s) with
        block := { (decodeStep b s.block).2 with phase := .receivedAwaitingCrc } }
  /-- LERR in `Idle` (R141). -/
  | faultIgnored (op : i = .evtLerr) (idle : s.block.phase = .idle) : Effect i s (takeReceived (quiet s))
  /-- LERR (R139). -/
  | faulted (op : i = .evtLerr) (busy : s.block.phase ≠ .idle) :
      Effect i s (latch .error (takeReceived (quiet s)))
  /-- A frame on the line (log 12). -/
  | arrived (words : List EvtWord) :
      Effect i s { quiet s with env := { s.env with pending := s.env.pending ++ words } }
  /-- ENCODE run by itself (R111). -/
  | encoded (p : List Byte) (o : Output) (op : i = .fnEncode p) (short : p.length ≤ Config.maxLen)
      (noAction : o.actions = []) (noResponse : o.resp = none) :
      Effect i s { s with block := encodeFrame s.params.crcTable p s.block, out := o }
  /-- DECODE_STEP run by itself (R112). -/
  | decoded (b : Byte) (o : Output) (op : i = .fnDecodeStep b) (noAction : o.actions = [])
      (noResponse : o.resp = none) :
      Effect i s { s with block := (decodeStep b s.block).2, out := o }

theorem effect_readStatus {i : Instr} (s : State) : Effect i s (readStatus s) :=
  .answered ⟨some (responseWord false (reported s.block) 0#8), [], none⟩ rfl fun w h hr => by
    cases h; simp at hr

theorem effect_readRxlen {i : Instr} (s : State) (h : i.core = .reqGetRxlen) : Effect i s (readRxlen s) := by
  rcases readRxlen_cases s with e | e
  · rw [e.2]
    exact .answered ⟨some (responseWord false .ok s.block.rxLen), [], none⟩ rfl fun w h hr => by
      cases h; simp at hr
  · rw [e.2]; exact .freeLength h

theorem effect_poll {i : Instr} (s : State) (h : i.core = .reqPoll) : Effect i s (poll s) := by
  have nothing : Effect i s (respond .ok 0#8 (quiet s)) :=
    .answered ⟨some (responseWord false .ok 0#8), [], none⟩ rfl fun w h hr => by cases h; simp at hr
  rcases pollBlock_cases (quiet s) with e | e | e | e | e
  · rw [poll, e.2]; exact nothing
  · rw [poll, e.2.2]; exact nothing
  · rw [poll, e.2.2.2]; exact .retransmitted h e.1 e.2.1 e.2.2.1
  · rw [poll, e.2.2.2]; exact .timedOut h e.1 e.2.1 e.2.2.1
  · rw [poll, e.2]
    rcases crcCheck_cases (quiet s) with c | c
    · rw [c.2]; exact .checked .ok h e.1
    · rw [c.2]; exact .checked .crcError h e.1

theorem effect_startSend {i : Instr} (e : Bool) (r : Byte) (m : Len) (p : List Byte) (s : State)
    (h : isSend i) : Effect i s (startSend e r m p s) := by
  rcases startSend_cases e r m p s with ⟨c, hc, he⟩ | ⟨hp, hl, hs, he⟩
  · rw [he]
    refine .answered ⟨some (responseWord true c 0#8), [], none⟩ rfl fun w hw _ => ?_
    cases hw
    rcases sendReason_code hc with ⟨rfl, _⟩ | ⟨rfl, _⟩ | ⟨rfl, _⟩
    · exact .inl ⟨rfl, .inl h⟩
    · exact .inr (.inl ⟨rfl, h⟩)
    · exact .inr (.inr (.inl ⟨rfl, .inl h⟩))
  · rw [he]; exact .sent e r m p h hp hl hs

theorem effect_startRecv {i : Instr} {m : Len} {s t : State} (h : isRecv i)
    (hx : startRecv m s = .next t) : Effect i s t := by
  rcases startRecv_cases m s with ⟨_, e⟩ | ⟨hp, hf, e⟩ | ⟨_, _, e⟩
  · rw [e] at hx; cases hx
    exact .answered ⟨some (responseWord true .busy 0#8), [], none⟩ rfl fun w hw _ => by
      cases hw; exact .inl ⟨rfl, .inr h⟩
  · rw [e] at hx; cases hx; exact .opened m h hp hf
  · rw [e] at hx; cases hx

/-- What `afterStart` does is only to the host's routines. -/
theorem afterStart_host (line : Routine) (s : State) :
    afterStart line s = { s with host := (afterStart line s).host } := by
  rw [afterStart]; split <;> rfl

theorem afterStatus_host {again : Routine} {onOk : State → State} (s : State)
    (h : onOk s = { s with host := (onOk s).host }) :
    afterStatus again onOk s = { s with host := (afterStatus again onOk s).host } := by
  rw [afterStatus]
  split
  · rfl
  split
  · exact h
  · rfl

/-- Entering a routine changes nothing that SEND looks at. -/
theorem startSend_enter (e : Bool) (r : Byte) (m : Len) (p : List Byte) (line : Routine) (s : State) :
    startSend e r m p (enter line s) =
      { startSend e r m p s with host := { s.host with calls := line :: s.host.calls } } := by
  simp only [startSend, enter_block]
  split <;> rfl

/-- Entering a routine changes nothing that RECV looks at. -/
theorem startRecv_enter (m : Len) (line : Routine) (s : State) :
    startRecv m (enter line s) = thenState (startRecv m s) (fun t =>
      { t with host := { s.host with calls := line :: s.host.calls } }) := by
  rcases startRecv_cases m s with ⟨hp, e⟩ | ⟨hp, hf, e⟩ | ⟨hp, hf, e⟩ <;>
    rcases startRecv_cases m (enter line s) with ⟨hp', e'⟩ | ⟨hp', hf', e'⟩ | ⟨hp', hf', e'⟩ <;>
    first
    | exact absurd hp' hp
    | exact absurd hp hp'
    | exact absurd hf' (Nat.not_le.2 hf)
    | exact absurd hf (Nat.not_le.2 hf')
    | (rw [e, e']; rfl)

/-- Everything an operation can do. -/
theorem exec_effect {i : Instr} {s t : State} (h : exec i s = .next t) :
    ∃ u, Effect i s u ∧ t = { u with host := t.host } := by
  have same : ∀ {u : State}, Effect i s u → Host.Outcome.next u = Host.Outcome.next (φ := Fault) (ρ := Refusal) t →
      ∃ u, Effect i s u ∧ t = { u with host := t.host } := by
    intro u hu e; cases e; exact ⟨_, hu, rfl⟩
  cases i with
  | reqGetStatus => exact same (effect_readStatus s) h
  | reqSend e r m p => exact same (effect_startSend e r m p s trivial) h
  | reqRecv m => exact ⟨t, effect_startRecv trivial h, rfl⟩
  | reqPoll => exact same (effect_poll s rfl) h
  | reqGetRxlen => exact same (effect_readRxlen s rfl) h
  | reqCrc8 p =>
    rcases crcRequest_cases p s with ⟨hl, e⟩ | ⟨_, e⟩
    · exact same (.answered ⟨some (responseWord true .lengthError 0#8), [], none⟩ rfl
        fun w hw _ => by cases hw; exact .inr (.inr (.inl ⟨rfl, .inr ⟨p, rfl, hl⟩⟩)))
        ((congrArg Host.Outcome.next e).symm.trans h)
    · exact same (.answered ⟨some (responseWord false .ok (crc8 s.params.crcTable p)), [], none⟩ rfl
        fun w hw hr => by cases hw; simp at hr) ((congrArg Host.Outcome.next e).symm.trans h)
  | reqReserved w =>
    exact same (.answered ⟨some (responseWord true .illegalRequest 0#8), [], none⟩ rfl
      fun v hv _ => by cases hv; exact .inr (.inr (.inr ⟨rfl, w, rfl⟩))) h
  | evtTxc =>
    rcases txDone_cases s with ⟨hp, e⟩ | ⟨hp, hv, e⟩ | ⟨hp, hv, hf, e⟩ | ⟨_, _, _, e⟩
    · exact same (.txIgnored rfl hp) (e.symm.trans h)
    · exact same (.txOk rfl hp hv) (e.symm.trans h)
    · exact same (.txReply rfl hp hv hf) (e.symm.trans h)
    · exact absurd (e.symm.trans h) (by simp)
  | evtRxb b =>
    rcases byteReceived_cases b s with ⟨hp, e⟩ | ⟨hp, ha, hf, e⟩ | ⟨_, _, _, e⟩ | ⟨hp, ha, e⟩ | ⟨hp, ha, e⟩
    · exact same (.rxIgnored b rfl hp) (e.symm.trans h)
    · exact same (.rxContinued b rfl hp ha hf) (e.symm.trans h)
    · exact absurd (e.symm.trans h) (by simp)
    · exact same (.rxFailed b rfl hp ha) (e.symm.trans h)
    · exact same (.rxCompleted b rfl hp ha) (e.symm.trans h)
  | evtLerr =>
    rcases lineFault_cases s with ⟨hp, e⟩ | ⟨hp, e⟩
    · exact same (.faultIgnored rfl hp) ((congrArg Host.Outcome.next e).symm.trans h)
    · exact same (.faulted rfl hp) ((congrArg Host.Outcome.next e).symm.trans h)
  | evtReserved w => exact same (.answered Output.empty rfl fun w h => by cases h) h
  | wireFrame c p => exact same (.arrived _) h
  | fnCrc8Compute d => exact same (.answered _ rfl fun w h => by cases h) h
  | fnEncode p =>
    simp only [exec, execFnEncode] at h
    split at h
    · exact same (.encoded p _ rfl ‹_› rfl rfl) h
    · cases h
  | fnDecodeStep b => exact same (.decoded b _ rfl rfl rfl) h
  | apiSendAsync p => exact same (effect_startSend _ _ _ p s trivial) h
  | apiSendAndReceiveAsync p e m r => exact same (effect_startSend e r m p s trivial) h
  | apiReceiveAsync m => exact ⟨t, effect_startRecv trivial h, rfl⟩
  | apiPollOnce => exact same (effect_poll s rfl) h
  | apiGetStatus => exact same (effect_readStatus s) h
  | apiReceivedLength => exact same (effect_readRxlen s rfl) h
  | apiSendAndReceiveSync p e m r =>
    refine ⟨_, effect_startSend e r m p s trivial, ?_⟩
    cases h
    rw [startSend_enter, afterStart_host]
  | apiReceiveAndReplySync m =>
    obtain ⟨u, hu, rfl⟩ := thenState_next.1 h
    rw [startRecv_enter] at hu
    obtain ⟨v, hv, rfl⟩ := thenState_next.1 hu
    exact ⟨v, effect_startRecv trivial hv, by rw [afterStart_host]⟩

/-- The operations that an input of `step` can come to: all but the internal functions. -/
def isInternal : Instr → Prop
  | .fnCrc8Compute _ => True
  | .fnEncode _ => True
  | .fnDecodeStep _ => True
  | _ => False

/-- The state in which input `x` has been taken and `pending` events are left to deliver. -/
def taken (x : Input) (rest : List Input) (pending : List EvtWord) (s : State) : State :=
  { present x rest s with env := { s.env with tick := x.now, pending := pending } }

theorem decodeEvent_external (w : EvtWord) : ¬ isInternal (decodeEvent w) := by
  rw [decodeEvent]; split <;> exact id

theorem decode_external {f : Encoded} {i : Instr} (h : decode f = .instr i) : ¬ isInternal i := by
  cases f with
  | request w p =>
    replace h : decodeRequest w p = .instr i := h
    rw [decodeRequest] at h
    split at h <;> (try simp only [withoutPayload] at h) <;> (try split at h) <;>
      first | exact Decoded.noConfusion h | (cases h; exact id)
  | event w => cases h; exact decodeEvent_external w
  | wire b =>
    replace h : decodeFrame b = .instr i := h
    rw [decodeFrame.eq_def] at h
    split at h <;> (try split at h) <;>
      first | exact Decoded.noConfusion h | (cases h; exact id)

/-- Everything a step that answers a next state can do: nothing, an operation (of an input, or of a line
of a host routine), or a host write of RXBUF in `Idle`. -/
theorem step_cases {s t : State} (h : step s = .next t) :
    (s.inputs = [] ∧ t = quiet s) ∨
    ∃ x rest, s.inputs = x :: rest ∧ s.env.tick.toNat ≤ x.now.toNat ∧
      ((∃ i pending u, ¬ isInternal i ∧ exec i (taken x rest pending s) = .next u ∧
          t = { u with host := t.host }) ∨
        t = present x rest s ∨
        ∃ o v, x.what = .hostWrite o v ∧ s.block.phase = .idle ∧ t = { present x rest s with
          block := { s.block with rxbuf := Memory.write s.block.rxbuf o.toNat v } }) := by
  cases hin : s.inputs with
  | nil =>
    have hf : fetch s = .idle := by rw [fetch, hin]
    rw [step, hf] at h; cases h; exact .inl ⟨rfl, rfl⟩
  | cons x rest =>
    refine .inr ⟨x, rest, rfl, ?_⟩
    by_cases ht : x.now < s.env.tick
    · have hf : fetch s = .refuse .tickDecreases := by rw [fetch, hin]; exact if_pos ht
      rw [step, hf] at h; cases h
    have hf : fetch s = fetchStimulus x.what (present x rest s) := by
      rw [fetch, hin]; exact if_neg ht
    rw [step, hf] at h
    refine ⟨by rw [BitVec.lt_def] at ht; omega, ?_⟩
    have same : present x rest s = taken x rest s.env.pending s := rfl
    have pend : ∀ q, (match fetchPending { present x rest s with env := { (present x rest s).env with pending := q } } with
        | .idle => Host.Outcome.next (quiet s) | .refuse why => .refused why | .run i t => exec i t
        | .done r => r) = Host.Outcome.next t →
        (q = [] ∧ t = taken x rest [] s) ∨ ∃ i later, ¬ isInternal i ∧ exec i (taken x rest later s) = .next t := by
      intro q hq
      cases q with
      | nil => cases hq; exact .inl ⟨rfl, rfl⟩
      | cons w later => exact .inr ⟨decodeEvent w, later, decodeEvent_external w, hq⟩
    cases hw : x.what with
    | port form =>
      rw [hw] at h
      cases form with
      | request w p =>
        simp only [fetchStimulus, fetchPort] at h
        cases hd : decode (.request w p) with
        | instr i => rw [hd] at h; exact .inl ⟨i, _, t, decode_external hd, same ▸ h, rfl⟩
        | bad why => rw [hd] at h; cases h
      | wire b =>
        simp only [fetchStimulus, fetchPort] at h
        cases hd : decode (.wire b) with
        | instr i => rw [hd] at h; exact .inl ⟨i, _, t, decode_external hd, same ▸ h, rfl⟩
        | bad why => rw [hd] at h; cases h
      | event w =>
        rcases pend _ h with ⟨hq, _⟩ | ⟨i, later, hi, he⟩
        · simp at hq
        · exact .inl ⟨i, later, t, hi, he, rfl⟩
    | deliver =>
      rw [hw] at h
      rcases pend s.env.pending h with ⟨hq, rfl⟩ | ⟨i, later, hi, he⟩
      · exact .inr (.inl (by rw [same, hq]))
      · exact .inl ⟨i, later, t, hi, he, rfl⟩
    | call op =>
      rw [hw] at h
      by_cases ho : (op.isApi && op.wf) = true
      · simp only [fetchStimulus, if_pos ho] at h
        refine .inl ⟨op, _, t, ?_, same ▸ h, rfl⟩
        cases op <;> first | exact id | exact absurd ho (by simp [Instr.isApi])
      · simp only [fetchStimulus, if_neg ho] at h; cases h
    | resume =>
      rw [hw] at h
      cases h
      have line : ∀ i u, ¬ isInternal i → exec i (present x rest s) = .next u →
          ∀ t : State, t = { u with host := t.host } →
          ∃ (i : Instr) (pending : List EvtWord) (u : State),
            ¬ isInternal i ∧ exec i (taken x rest pending s) = .next u ∧
              t = { u with host := t.host } := fun i u hi he t ht => ⟨i, _, u, hi, same ▸ he, ht⟩
      simp only [resume]
      split
      · exact .inr (.inl rfl)
      rename_i l outer hl
      cases l with
      | srsPoll => exact .inl (line .reqPoll _ id rfl _ rfl)
      | srsStatus => exact .inl (line .reqGetStatus _ id rfl _ (afterStatus_host _ rfl))
      | srsLength => exact .inl (line .reqGetRxlen _ id rfl _ rfl)
      | rrsPoll => exact .inl (line .reqPoll _ id rfl _ rfl)
      | rrsStatus => exact .inl (line .reqGetStatus _ id rfl _ (afterStatus_host _ rfl))
      | rrsLength => exact .inl (line .reqGetRxlen _ id rfl _ rfl)
      | rrsHandler n => exact .inr (.inl rfl)
      | rrsReplyPoll => exact .inl (line .reqPoll _ id rfl _ rfl)
      | rrsReplyStatus => exact .inl (line .reqGetStatus _ id rfl _ (afterStatus_host _ rfl))
    | handlerReply p =>
      rw [hw] at h
      simp only [fetchStimulus, handlerReplies] at h
      split at h
      · cases h
        exact .inl ⟨.reqSend false 0 0 p, _, _, id, rfl, afterStart_host _ _⟩
      · cases h
    | hostWrite o v =>
      rw [hw] at h
      simp only [fetchStimulus, hostWrites] at h
      split at h
      · cases h; exact .inr (.inr ⟨o, v, rfl, ‹_›, rfl⟩)
      · cases h

end Sys2Proof.Machine
end

