-- ==== Sys2Proof/Laws/PerInstr.lean ====
section
/-! SUPPORT. One lemma per operation for statements about all operations as syntax. -/

namespace Sys2Proof.Laws

/-- Whether a form is a request word, an event word or wire bytes, as the column "format" of the opcode
table has it: 0, 1, 2. -/
def formatOf : Encoded → Nat
  | .request _ _ => 0
  | .event _ => 1
  | .wire _ => 2

/-- The format in which the opcode table lists an operation, none where it lists no encoding (R93). -/
def tableFormat : Instr → Option Nat
  | .reqGetStatus | .reqSend _ _ _ _ | .reqRecv _ | .reqPoll | .reqGetRxlen | .reqCrc8 _
  | .reqReserved _ => some 0
  | .evtTxc | .evtRxb _ | .evtLerr | .evtReserved _ => some 1
  | .wireFrame _ _ => some 2
  | .fnCrc8Compute _ | .fnEncode _ | .fnDecodeStep _ => none
  | .apiSendAsync _ | .apiSendAndReceiveAsync _ _ _ _ | .apiReceiveAsync _ | .apiPollOnce
  | .apiGetStatus | .apiReceivedLength => some 0
  | .apiSendAndReceiveSync _ _ _ _ | .apiReceiveAndReplySync _ => none

/-- The encoder writes an operation in the format the opcode table lists for it, and in none where the
table lists none. -/
def EncodeFormat.Statement (i : Instr) : Prop := (encode i).map formatOf = tableFormat i

theorem EncodeFormat.reqGetStatus : EncodeFormat.Statement .reqGetStatus := rfl
theorem EncodeFormat.reqSend a b c d : EncodeFormat.Statement (.reqSend a b c d) := rfl
theorem EncodeFormat.reqRecv a : EncodeFormat.Statement (.reqRecv a) := rfl
theorem EncodeFormat.reqPoll : EncodeFormat.Statement .reqPoll := rfl
theorem EncodeFormat.reqGetRxlen : EncodeFormat.Statement .reqGetRxlen := rfl
theorem EncodeFormat.reqCrc8 a : EncodeFormat.Statement (.reqCrc8 a) := rfl
theorem EncodeFormat.reqReserved a : EncodeFormat.Statement (.reqReserved a) := rfl
theorem EncodeFormat.evtTxc : EncodeFormat.Statement .evtTxc := rfl
theorem EncodeFormat.evtRxb a : EncodeFormat.Statement (.evtRxb a) := rfl
theorem EncodeFormat.evtLerr : EncodeFormat.Statement .evtLerr := rfl
theorem EncodeFormat.evtReserved a : EncodeFormat.Statement (.evtReserved a) := rfl
theorem EncodeFormat.wireFrame a b : EncodeFormat.Statement (.wireFrame a b) := rfl
theorem EncodeFormat.fnCrc8Compute a : EncodeFormat.Statement (.fnCrc8Compute a) := rfl
theorem EncodeFormat.fnEncode a : EncodeFormat.Statement (.fnEncode a) := rfl
theorem EncodeFormat.fnDecodeStep a : EncodeFormat.Statement (.fnDecodeStep a) := rfl
theorem EncodeFormat.apiSendAsync a : EncodeFormat.Statement (.apiSendAsync a) := rfl
theorem EncodeFormat.apiSendAndReceiveAsync a b c d : EncodeFormat.Statement (.apiSendAndReceiveAsync a b c d) := rfl
theorem EncodeFormat.apiReceiveAsync a : EncodeFormat.Statement (.apiReceiveAsync a) := rfl
theorem EncodeFormat.apiPollOnce : EncodeFormat.Statement .apiPollOnce := rfl
theorem EncodeFormat.apiGetStatus : EncodeFormat.Statement .apiGetStatus := rfl
theorem EncodeFormat.apiReceivedLength : EncodeFormat.Statement .apiReceivedLength := rfl
theorem EncodeFormat.apiSendAndReceiveSync a b c d : EncodeFormat.Statement (.apiSendAndReceiveSync a b c d) := rfl
theorem EncodeFormat.apiReceiveAndReplySync a : EncodeFormat.Statement (.apiReceiveAndReplySync a) := rfl
end Sys2Proof.Laws
end

