-- ==== Sys2Proof/Laws/Run.lean ====
section
/-! SUPPORT. Runs of several steps: `Host.Core.run` of the machine. -/

namespace Sys2Proof.Machine

/-- A run whose first step answers a next state goes on from it. -/
theorem run_next (m : Host.Core) {n : Nat} {s t : m.State} (h : m.step s = .next t) :
    m.run (n + 1) s = m.run n t := by
  simp only [Host.Core.run, h]

theorem run_step {n : Nat} {s t : State} (h : step s = .next t) :
    Host.Core.run Sys2Proof.core (n + 1) s = Host.Core.run Sys2Proof.core n t :=
  run_next Sys2Proof.core h

/-- Runs one after the other. -/
theorem run_both (m : Host.Core) {j n : Nat} {s t : m.State} (h : m.run j s = .next t) :
    m.run (j + n) s = m.run n t := by
  induction j generalizing s with
  | zero => cases h; rw [Nat.zero_add]
  | succ j ih =>
    rw [Nat.succ_add]
    cases hs : m.step s with
    | next u => rw [run_next m hs] at h; exact (run_next m hs).trans (ih h)
    | fault e => simp only [Host.Core.run, hs] at h; cases h
    | refused e => simp only [Host.Core.run, hs] at h; cases h

theorem run_append {j n : Nat} {s t : State} (h : Host.Core.run Sys2Proof.core j s = .next t) :
    Host.Core.run Sys2Proof.core (j + n) s = Host.Core.run Sys2Proof.core n t :=
  run_both Sys2Proof.core h

end Sys2Proof.Machine
end

