-- ==== Sys2Proof/Tests/Slice0.lean ====
section
/-! SUPPORT. The model's own tests: the well-formedness smoke, words written out from the encodings of
30_encoding.md, single steps whose expected results are those of 95_test_vectors.md or a hand calculation
from the rule named, and a state that meets the hypotheses of each statement that has some. -/

namespace Sys2Proof.Tests

open Sys2Proof Sys2Proof.Machine Sys2Proof.Safety

/-! ## Helpers -/

/-- One byte of the candidate table of 95_test_vectors.md section 0: eight steps of the division by
`x^8 + x^5 + x^4 + 1`, most significant bit first. -/
def crcBits : Nat → Byte → Byte
  | 0, v => v
  | n + 1, v => crcBits n (if v.msb then (v <<< 1) ^^^ 0x31 else v <<< 1)

/-- The candidate table of 95_test_vectors.md section 0 (a guess of that file, used by its vectors). -/
def vectorTable : Vector Byte 256 := Vector.ofFn (fun i => crcBits 8 (BitVec.ofFin i))

/-- A table of one value, for the tests that read no table entry. -/
def flatTable : Vector Byte 256 := Vector.replicate 256 0

/-- The timeout of 95_test_vectors.md, 50 ticks. -/
def flat : Parameters := ⟨flatTable, 50⟩

/-- The machine of the vectors right after reset. -/
def idle : State := State.resetWith ⟨vectorTable, 50⟩ ResetDraw.chosen

/-- As `idle`, with the table of one value. -/
def plain : State := State.resetWith flat ResetDraw.chosen

/-- `plain` with a block. -/
def withBlock (k : Block) : State := { plain with block := k }

/-- `plain` in a phase. -/
def inPhase (p : Phase) : State := withBlock { plain.block with phase := p }

/-- At a tick. -/
def at_ (t : Tick) (s : State) : State := { s with env := { s.env with tick := t } }

/-- An open reception with a bound, a count and a length. -/
def receiving (rxMax : Len) (cnt : Count) (len : Byte) : Block :=
  { plain.block with phase := .receiving, rxv := true, rxMax := rxMax, rxCnt := cnt, rxLen := len }

/-- One field of a next state. -/
def view {α : Type} (f : State → α) : Result → Option α
  | .next s => some (f s)
  | .fault _ => none
  | .refused _ => none

/-- Whether a result is a next state. -/
def isNext (r : Result) : Bool := (view (fun _ => ()) r).isSome

/-- `n` bytes of zero. -/
def zeros (n : Nat) : List Byte := List.replicate n 0

theorem zeros_length (n : Nat) : (zeros n).length = n := List.length_replicate

/-! ## Well-formedness: each check refuses an ill-formed term -/

/-- LEN has 16 bits (R76): 65536 bytes do not fit. -/
theorem test_wf_send_too_long : (Instr.reqSend false 0 0 (zeros 65536)).wf = false := by
  simp [Instr.wf, payloadFits, zeros_length]

theorem test_wf_crc8_too_long : (Instr.reqCrc8 (zeros 65536)).wf = false := by
  simp [Instr.wf, payloadFits, zeros_length]

theorem test_wf_sendAsync_too_long : (Instr.apiSendAsync (zeros 65536)).wf = false := by
  simp [Instr.wf, payloadFits, zeros_length]

theorem test_wf_sendAndReceiveAsync_too_long :
    (Instr.apiSendAndReceiveAsync (zeros 65536) true 0 0).wf = false := by
  simp [Instr.wf, payloadFits, zeros_length]

theorem test_wf_sendAndReceiveSync_too_long :
    (Instr.apiSendAndReceiveSync (zeros 65536) true 0 0).wf = false := by
  simp [Instr.wf, payloadFits, zeros_length]

/-- SEND with 256 bytes is a request that can be presented (R184 c). -/
theorem test_wf_send_256 : (Instr.reqSend false 0 0 (zeros 256)).wf = true := by
  simp [Instr.wf, payloadFits, zeros_length]

/-- The length byte of a frame goes to 255 (R71). -/
theorem test_wf_frame_too_long : (Instr.wireFrame 0 (zeros 256)).wf = false := by
  simp [Instr.wf, payloadFramed, Config.maxLen, zeros_length]

theorem test_wf_encode_too_long : (Instr.fnEncode (zeros 256)).wf = false := by
  simp [Instr.wf, payloadFramed, Config.maxLen, zeros_length]

/-- The word of POLL is not reserved (R78). -/
theorem test_wf_reserved_request : (Instr.reqReserved 0x0000000000000003).wf = false := by decide

/-- The word of an RXB is not reserved (R82). -/
theorem test_wf_reserved_event : (Instr.evtReserved 0x0255).wf = false := by decide

/-! ## Decoding: words written out from R71, R78 and R82 -/

theorem test_decode_GET_STATUS : decode (.request 0x0000000000000000 []) = .instr .reqGetStatus := by
  decide

/-- R78: OP 1, EXPECT 1 (bit 4), RETRY 2 (bits 15:8), LEN 4 (bits 31:16), RXMAX 0x10 (bits 47:32). -/
theorem test_decode_SEND : decode (.request 0x0000001000040211 [0x50, 0x49, 0x4E, 0x47]) =
    .instr (.reqSend true 2 0x10 [0x50, 0x49, 0x4E, 0x47]) := by decide

/-- R185's worked example. -/
theorem test_decode_RECV : decode (.request 0x0000002000000002 []) = .instr (.reqRecv 32) := by decide

theorem test_decode_POLL : decode (.request 0x0000000000000003 []) = .instr .reqPoll := by decide

theorem test_decode_GET_RXLEN : decode (.request 0x0000000000000004 []) = .instr .reqGetRxlen := by
  decide

theorem test_decode_CRC8 : decode (.request 0x0000000000020005 [0x4F, 0x4B]) =
    .instr (.reqCrc8 [0x4F, 0x4B]) := by decide

/-- OP 6 is reserved (R78). -/
theorem test_decode_reserved_op : decode (.request 0x0000000000000006 []) = .instr (.reqReserved 6) := by
  decide

/-- RECV with EXPECT set uses a field RECV does not have (R79, R80). -/
theorem test_decode_reserved_field : decode (.request 0x0000000800000012 []) =
    .instr (.reqReserved 0x0000000800000012) := by decide

/-- A payload list that has not LEN bytes cannot be presented (R80). -/
theorem test_decode_length_mismatch : decode (.request 0x0000000000020005 [0x4F]) = .bad .payloadLength := by
  decide

theorem test_decode_TXC : decode (.event 0x0100) = .instr .evtTxc := by decide

theorem test_decode_RXB : decode (.event 0x0255) = .instr (.evtRxb 0x55) := by decide

theorem test_decode_LERR : decode (.event 0x0300) = .instr .evtLerr := by decide

/-- KIND 0, a non-zero ZERO_E, and a non-zero DATA with TXC (R83). -/
theorem test_decode_reserved_events :
    decode (.event 0x0001) = .instr (.evtReserved 0x0001) ∧
    decode (.event 0x0655) = .instr (.evtReserved 0x0655) ∧
    decode (.event 0x0101) = .instr (.evtReserved 0x0101) := by decide

/-- 95_test_vectors.md section 2.2: the frame of "OK". -/
theorem test_decode_FRAME : decode (.wire [0x55, 0x02, 0x46, 0x4F, 0x4B]) =
    .instr (.wireFrame 0x46 [0x4F, 0x4B]) := by decide

/-- No magic byte, and a payload shorter than the length field (R71). -/
theorem test_decode_no_frame : decode (.wire [0x54, 0x00, 0xFF]) = .bad .notAFrame ∧
    decode (.wire [0x55, 0x02, 0x46, 0x4F]) = .bad .notAFrame := by decide

/-- The words of the one-request pseudo-operations (R91), which decode to their requests. -/
theorem test_encode_api :
    encode (.apiSendAsync [0x41]) = some (.request 0x0000000000010001 [0x41]) ∧
    encode (.apiSendAndReceiveAsync [0x41] true 4 1) = some (.request 0x0000000400010111 [0x41]) ∧
    encode (.apiReceiveAsync 8) = some (.request 0x0000000800000002 []) ∧
    encode .apiPollOnce = some (.request 3 []) ∧ encode .apiGetStatus = some (.request 0 []) ∧
    encode .apiReceivedLength = some (.request 4 []) := by decide

/-- The opcode table's numbering (log 19). -/
theorem test_table_words :
    decodeTableWord 64 3 = some .reqPoll ∧ decodeTableWord 64 0x30005 = some (.reqCrc8 [0, 0, 0]) ∧
    decodeTableWord 16 0x0100 = some .evtTxc ∧ decodeTableWord 16 0x0255 = some (.evtRxb 0x55) ∧
    decodeTableWord 24 0x010255 = some (.evtRxb 0x55) ∧
    decodeTableWord 24 0x5502A0 = some (.wireFrame 0xA0 [0, 0]) := by decide

/-- The placed word is the next step's (log 6). -/
theorem test_withFetchWord :
    step (plain.withFetchWord 16 0x0300) = exec .evtLerr plain ∧
    step (plain.withFetchWord 64 3) = exec .reqPoll plain := ⟨rfl, rfl⟩

/-! ## Single steps -/

/-- 95_test_vectors.md section 2.1, the table-independent values: `[]` and `[FF]` under any table. -/
theorem test_CRC8_empty : view (fun s => s.out.resp) (exec (.reqCrc8 []) plain) = some (some 0xFF00) := by
  decide

/-- 95_test_vectors.md section 2.1: "OK" is 46 under the candidate table. -/
theorem test_CRC8_ok : crc8 vectorTable [0x4F, 0x4B] = 0x46 := by decide +kernel

theorem long_CRC8 : exec (.reqCrc8 (zeros 256)) plain = .next (reject .lengthError plain) :=
  congrArg Host.Outcome.next (if_pos (by simp [zeros_length, Config.maxLen]))

/-- 95_test_vectors.md section 2.1: any 256 bytes are answered 0x000E. -/
theorem test_CRC8_long :
    view (fun s => s.out.resp) (exec (.reqCrc8 (zeros 256)) plain) = some (some 0x000E) := by
  rw [long_CRC8]; decide

theorem test_CRC8_COMPUTE : view (fun s => s.out.internal) (exec (.fnCrc8Compute []) plain) =
    some (some (.crc 0xFF)) := by decide

/-- 95_test_vectors.md P5: SEND [41] in Idle. -/
theorem test_SEND : view (fun s => (s.block.phase, s.block.txLen, s.block.txCrc, s.block.carrier,
      s.out.actions)) (exec (.reqSend false 0 0 [0x41]) idle) =
    some (.transmitting, 1, 0xA0, true, [.carrierStart, .txStart [0x55, 0x01, 0xA0, 0x41]]) := by
  decide +kernel

/-- 95_test_vectors.md P5: busy comes before the retry check. -/
theorem test_SEND_busy : view (fun s => s.out.resp)
    (exec (.reqSend false 3 0 [0x42]) (inPhase .transmitting)) = some (some 0x0009) := by decide

/-- R185's worked example at tick 500: the deadline is 550. -/
theorem test_RECV : view (fun s => (s.block.phase, s.block.rxMax, s.block.deadline, s.out.actions))
    (exec (.reqRecv 32) (at_ 500 plain)) = some (.receiving, 32, 550, [.rxArm]) := by decide

/-- R163: a deadline of 2^32 is refused. -/
theorem test_RECV_beyond : view (fun s => s.block.phase)
    (exec (.reqRecv 32) (at_ 0xFFFFFFCE plain)) = none := by decide

/-- R164's worked example: deadline 150, retry 0, tick 151. -/
theorem test_POLL_timeout : view (fun s => (s.block.phase, s.block.status)) (exec .reqPoll (at_ 151 (withBlock
    { receiving 4 0 0 with deadline := 150 }))) = some (.idle, .timeout) := by decide

/-- R166's worked example: tick 150 is not yet late. -/
theorem test_POLL_at_deadline : view (fun s => s.block.phase) (exec .reqPoll (at_ 150 (withBlock
    { receiving 4 0 0 with deadline := 150 }))) = some .receiving := by decide

/-- R189's worked examples. -/
theorem test_GET_STATUS : view (fun s => s.out.resp) (exec .reqGetStatus (inPhase .receiving)) =
      some (some 0x0001) ∧
    view (fun s => s.out.resp) (exec .reqGetStatus (withBlock { plain.block with status := .timeout })) =
      some (some 0x0004) := by decide

/-- R190's worked example: a received length of 2. -/
theorem test_GET_RXLEN : view (fun s => s.out.resp) (exec .reqGetRxlen (withBlock
    { plain.block with rxv := true, rxLen := 2, status := .crcError })) = some (some 0x0200) := by decide

theorem test_RESERVED_REQUEST : view (fun s => s.out.resp) (exec (.reqReserved 6) plain) =
    some (some 0x000F) := by decide

/-- R133's worked example. -/
theorem test_TXC : view (fun s => (s.block.phase, s.block.status, s.block.carrier, s.out.actions))
    (exec .evtTxc (withBlock { plain.block with phase := .transmitting, carrier := true })) =
    some (.idle, .ok, false, [.carrierStop]) := by decide

/-- 95_test_vectors.md P6 at tick 2: a reply is expected. -/
theorem test_TXC_reply : view (fun s => (s.block.phase, s.block.deadline, s.out.actions))
    (exec .evtTxc (at_ 2 (withBlock { plain.block with phase := .transmitting, rxv := true }))) =
    some (.receiving, 52, [.carrierStop, .rxArm]) := by decide

/-- R136's worked example at tick 30. -/
theorem test_RXB_magic : view (fun s => (s.block.rxCnt, s.block.deadline, s.out.actions))
    (exec (.evtRxb 0x55) (at_ 30 (withBlock (receiving 4 0 0)))) = some (1, 80, [.rxArm]) := by decide

/-- R115's worked example: length 0x11 against a bound of 16. -/
theorem test_RXB_too_long : view (fun s => (s.block.phase, s.block.status, s.block.rxCnt))
    (exec (.evtRxb 0x11) (withBlock (receiving 16 1 0))) = some (.idle, .error, 1) := by decide

/-- R139's worked example. -/
theorem test_LERR : view (fun s => (s.block.phase, s.block.status, s.block.rxCnt, s.block.retry))
    (exec .evtLerr (withBlock { receiving 16 5 9 with retry := 2 })) = some (.idle, .error, 5, 2) := by decide

theorem test_RESERVED_EVENT : view (fun s => s.block) (exec (.evtReserved 0x0301) (inPhase .receiving)) =
    some (inPhase .receiving).block := by decide

/-- R56: magic, length, crc, payload. -/
theorem test_FRAME : view (fun s => s.env.pending) (exec (.wireFrame 0x46 [0x4F, 0x4B]) plain) =
    some [0x0255, 0x0202, 0x0246, 0x024F, 0x024B] := by decide

/-- R111: the empty payload. -/
theorem test_ENCODE : view (fun s => s.out.internal) (exec (.fnEncode []) plain) =
    some (some (.frame [0x55, 0x00, 0xFF])) := by decide

/-- R123. -/
theorem test_ENCODE_too_long : exec (.fnEncode (zeros 256)) plain = .fault .encodeTooLong := by
  simp [exec, execFnEncode, Config.maxLen, zeros_length]

/-- 95_test_vectors.md section 2.2: the last payload byte of "PING". -/
theorem test_DECODE_STEP : view (fun s => (s.out.internal, s.block.rxCnt, s.block.rxbuf))
    (exec (.fnDecodeStep 0x47) (withBlock (receiving 16 6 4))) =
    some (some (.decoder .complete), 7, [(3, 0x47)]) := by decide

/-- 95_test_vectors.md section 2.2: the 255th payload byte. -/
theorem test_DECODE_STEP_last : view (fun s => (s.out.internal, s.block.rxCnt, s.block.rxbuf))
    (exec (.fnDecodeStep 0xFE) (withBlock (receiving 255 257 255))) =
    some (some (.decoder .complete), 258, [(254, 0xFE)]) := by decide

theorem test_sendAsync : view (fun s => (s.block.phase, s.block.rxv, s.block.txLen))
    (exec (.apiSendAsync [0x41]) plain) = some (.transmitting, false, 1) := by decide

theorem test_sendAndReceiveAsync : view (fun s => (s.block.rxv, s.block.rxMax, s.block.retry))
    (exec (.apiSendAndReceiveAsync [0x41] true 4 1) plain) = some (true, 4, 1) := by decide

theorem test_receiveAsync : view (fun s => (s.block.phase, s.block.rxMax)) (exec (.apiReceiveAsync 8) plain) =
    some (.receiving, 8) := by decide

theorem test_pollOnce : view (fun s => s.out.resp) (exec .apiPollOnce (inPhase .idle)) = some (some 0) := by
  decide

theorem test_getStatus : view (fun s => s.out.resp) (exec .apiGetStatus (inPhase .transmitting)) =
    some (some 1) := by decide

theorem test_receivedLength : view (fun s => s.out.resp) (exec .apiReceivedLength (withBlock
    { plain.block with rxv := true, rxLen := 4 })) = some (some 0x0400) := by decide

/-- R196: after an accepted SEND the routine stands at its first POLL; a rejected one returns. -/
theorem test_sendAndReceiveSync :
    view (fun s => s.host.calls) (exec (.apiSendAndReceiveSync [0x41] true 4 1) plain) = some [.srsPoll] ∧
    view (fun s => (s.host.calls, s.host.result))
      (exec (.apiSendAndReceiveSync [0x41] false 4 1) plain) = some ([], some (.failure 5)) := by decide

theorem test_receiveAndReplySync :
    view (fun s => s.host.calls) (exec (.apiReceiveAndReplySync 8) plain) = some [.rrsPoll] ∧
    view (fun s => (s.host.calls, s.host.result)) (exec (.apiReceiveAndReplySync 8) (inPhase .receiving)) =
      some ([], some (.failure 1)) := by decide

/-! ## Witnesses: states and operands that meet the hypotheses of the statements -/

/-- `plain` with one input at tick 7. -/
def given (x : Stimulus) : State := { plain with inputs := [⟨7, x⟩] }

/-- A state whose block transmits a frame, with a reply expected or not. -/
def sending (rxv : Bool) : State :=
  { inPhase .transmitting with
    block := { plain.block with phase := .transmitting, rxv := rxv, carrier := true, txCrc := 0xFF }
    env := { plain.env with sending := [[0x55, 0x00, 0xFF]] } }

/-- An open reception past its deadline, with `n` retries left. -/
def late (n : Byte) : State := at_ 7 (withBlock { receiving 4 0 0 with retry := n, txCrc := 0xFF })

/-- A complete reception of one byte. -/
def complete : State :=
  withBlock { receiving 4 4 1 with phase := .receivedAwaitingCrc, rxbuf := [(0, 0x41)] }

theorem test_witness_DecodeOfEncodeIsTheOperation :
    (Instr.reqSend true 255 0xFFFF [0x41]).wf = true ∧
    encode (.reqSend true 255 0xFFFF [0x41]) = some (.request 0x0000FFFF0001FF11 [0x41]) := by decide

theorem test_witness_EncodeOfDecodeIsTheForm :
    decode (.request 6 []) = .instr (.reqReserved 6) ∧ requestKind 6 = none := by decide

theorem test_witness_RequestWordsDecodeByTheirPatterns :
    (0x0000000000000000 : ReqWord) &&& 0xFFFFFFFFFFFFFFFF = 0x0000000000000000 ∧
    ((0x0000FFFF0001FF11 : ReqWord) &&& 0xFFFF0000000000EF = 0x0000000000000001 ∧
      [0x41#8].length = (0x0000FFFF0001FF11 : ReqWord).toNat / 2 ^ 16 % 2 ^ 16) ∧
    (0x0000FFFF00000002 : ReqWord) &&& 0xFFFF0000FFFFFFFF = 0x0000000000000002 ∧
    (0x0000000000000003 : ReqWord) &&& 0xFFFFFFFFFFFFFFFF = 0x0000000000000003 ∧
    (0x0000000000000004 : ReqWord) &&& 0xFFFFFFFFFFFFFFFF = 0x0000000000000004 ∧
    ((0x0000000000000005 : ReqWord) &&& 0xFFFFFFFF0000FFFF = 0x0000000000000005 ∧
      ([] : List Byte).length = (0x0000000000000005 : ReqWord).toNat / 2 ^ 16 % 2 ^ 16) ∧
    6 ≤ (0x0000000000000006 : ReqWord).toNat % 16 ∧ 6 ≤ (0x000000000000000F : ReqWord).toNat % 16 := by
  decide

theorem test_witness_UnmatchedRequestIsIllegal :
    ((0x21 : ReqWord) ≠ 0 ∧ (0x21 : ReqWord) &&& 0xFFFF0000000000EF ≠ 1 ∧
      (0x21 : ReqWord) &&& 0xFFFF0000FFFFFFFF ≠ 2 ∧ (0x21 : ReqWord) ≠ 3 ∧ (0x21 : ReqWord) ≠ 4 ∧
      (0x21 : ReqWord) &&& 0xFFFFFFFF0000FFFF ≠ 5) ∧
    ((0x20001 : ReqWord) &&& 0xFFFF0000000000EF = 1 ∧
      [0x41#8].length ≠ (0x20001 : ReqWord).toNat / 2 ^ 16 % 2 ^ 16) ∧
    ((0x5 : ReqWord) &&& 0xFFFFFFFF0000FFFF = 5 ∧
      [0x41#8].length ≠ (0x5 : ReqWord).toNat / 2 ^ 16 % 2 ^ 16) := by decide

theorem test_witness_UnmatchedEventIsIgnored :
    (0x0101 : EvtWord) ≠ 0x0100 ∧ (0x0101 : EvtWord) &&& 0xFF00 ≠ 0x0200 ∧ (0x0101 : EvtWord) ≠ 0x0300 := by
  decide

theorem test_witness_EventWordsDecodeByTheirPatterns :
    (0x0100 : EvtWord) &&& 0xFFFF = 0x0100 ∧ (0x02FF : EvtWord) &&& 0xFF00 = 0x0200 ∧
    (0x0300 : EvtWord) &&& 0xFFFF = 0x0300 ∧ (0x00FF : EvtWord).toNat / 2 ^ 8 % 2 ^ 2 = 0 ∧
    (0x0500 : EvtWord).toNat / 2 ^ 10 ≠ 0 := by decide

/-- One state for each of the four kinds of input. -/
theorem test_witness_StepRunsTheDecodedOperation :
    plain.env.tick.toNat ≤ (7 : Tick).toNat ∧
    ((given (.port (.request 3 []))).inputs = [⟨7, .port (.request 3 [])⟩] ∧
      decode (.request 3 []) = .instr .reqPoll) ∧
    ((given (.port (.wire [0x55, 0, 0xFF]))).inputs = [⟨7, .port (.wire [0x55, 0, 0xFF])⟩] ∧
      decode (.wire [0x55, 0, 0xFF]) = .instr (.wireFrame 0xFF [])) ∧
    ((given (.port (.event 0x0100))).inputs = [⟨7, .port (.event 0x0100)⟩] ∧
      (given (.port (.event 0x0100))).env.pending = [] ∧ decode (.event 0x0100) = .instr .evtTxc) ∧
    ((given (.call .apiPollOnce)).inputs = [⟨7, .call .apiPollOnce⟩] ∧
      Instr.apiPollOnce.isApi = true ∧ Instr.apiPollOnce.wf = true) := by decide

/-- A state with two events pending, one with none. -/
theorem test_witness_EventsAreDeliveredOldestFirst :
    plain.env.tick.toNat ≤ (7 : Tick).toNat ∧ (given .deliver).inputs = [⟨7, .deliver⟩] ∧
    { given .deliver with env := { plain.env with pending := [0x0100, 0x0255] } }.env.pending =
      [0x0100, 0x0255] ∧
    (given (.port (.event 0x0300))).inputs = [⟨7, .port (.event 0x0300)⟩] ∧
    (given .deliver).env.pending = [] := by decide

theorem test_witness_DecreasingTickIsRefused :
    (given .deliver).inputs = [⟨7, .deliver⟩] ∧ (7 : Tick).toNat < (at_ 8 (given .deliver)).env.tick.toNat := by
  decide

theorem test_witness_WithoutInputNothingHappens : plain.inputs = [] := rfl

/-- One state for each refusal that a step can answer. -/
theorem test_witness_StepStopsOnlyForANamedCause :
    step (at_ 8 (given .deliver)) = .refused .tickDecreases ∧
    step { plain with inputs := [⟨0xFFFFFFCE, .port (.request 2 [])⟩] } = .refused .deadlineOutOfRange ∧
    step { inPhase .receiving with inputs := [⟨7, .hostWrite 0 1⟩] } = .refused .rxbufInUse ∧
    step (given (.port (.request 3 [0x41]))) = .refused .payloadLength ∧
    step (given (.port (.wire []))) = .refused .notAFrame ∧
    step (given (.call .reqPoll)) = .refused .notAFacadeCall ∧
    step (given (.handlerReply [])) = .refused .noHandlerRunning := ⟨rfl, rfl, rfl, rfl, rfl, rfl, rfl⟩

theorem test_witness_CrcOfTheEmptyListIsFF :
    (inPhase .receivedAwaitingCrc).block.phase = .receivedAwaitingCrc ∧
    (inPhase .receivedAwaitingCrc).block.rxLen = 0#8 := by decide

theorem test_witness_CrcRequestAnswersTheChecksum :
    ((0x10005 : ReqWord) &&& 0xFFFFFFFF0000FFFF = 5 ∧
      [0x41#8].length = (0x10005 : ReqWord).toNat / 2 ^ 16 % 2 ^ 16) ∧
    ((0x15 : ReqWord).toNat % 16 = 5 ∧ (0x15 : ReqWord) &&& 0xFFFFFFFF0000FFFF ≠ 5) ∧
    ((zeros 255).length ≤ 255 ∧ 255 < (zeros 256).length) :=
  ⟨by decide, by decide, by simp [zeros_length]⟩

theorem test_witness_InternalFunctionsRunByThemselves :
    (zeros 255).length ≤ 255 ∧ 255 < (zeros 256).length := by simp [zeros_length]

theorem test_witness_EncodeStagesTheFrame :
    Memory.wf [(254, 0x01#8)] = true ∧ (zeros 255).length ≤ 255 := ⟨by decide, by simp [zeros_length]⟩

theorem test_witness_DecoderTakesTheMagic : (receiving 4 0 0).rxCnt = 0#9 := by decide

theorem test_witness_NoiseBeforeAFrameIsIgnored :
    (withBlock (receiving 4 0 0)).block.rxCnt = 0#9 ∧ (0x54 : Byte) ≠ 0x55 ∧
    (withBlock (receiving 4 0 0)).block.phase = .receiving ∧
    (withBlock (receiving 4 0 0)).env.tick.toNat + flat.byteTimeout.toNat < 2 ^ 32 := by decide

theorem test_witness_DecoderChecksTheLength :
    (receiving 16 1 0).rxCnt = 1#9 ∧ (receiving 16 1 0).rxMax.toNat < (0x11 : Byte).toNat ∧
    (0x10 : Byte).toNat ≤ (receiving 16 1 0).rxMax.toNat := by decide

theorem test_witness_DecoderStoresTheCrc : (receiving 16 2 4).rxCnt = 2#9 := by decide

theorem test_witness_DecoderStoresThePayload :
    Memory.wf (receiving 16 3 1).rxbuf = true ∧ 3 ≤ (receiving 16 3 1).rxCnt.toNat ∧
    (receiving 16 3 1).rxCnt.toNat < 3 + (receiving 16 3 1).rxLen.toNat ∧
    3 + (receiving 16 4 1).rxLen.toNat ≤ (receiving 16 4 1).rxCnt.toNat := by decide

/-- A payload of 255 bytes against a bound of 255, and against one of 254. -/
theorem test_witness_DecodeInvertsEncode :
    Memory.wf (receiving 255 0 0).rxbuf = true ∧ (receiving 255 0 0).rxCnt = 0#9 ∧
    (zeros 255).length ≤ 255 ∧ (∀ b ∈ [0x00#8, 0x13#8], b ≠ 0x55) ∧
    (zeros 255).length ≤ (receiving 255 0 0).rxMax.toNat ∧
    (receiving 254 0 0).rxMax.toNat < (zeros 255).length := by
  simp only [zeros_length]; decide

theorem test_witness_RxbufWritesStayBelowTheLength :
    (Memory.wf (receiving 16 3 1).rxbuf = true ∧
      Memory.read (decodeStep 0x41 (receiving 16 3 1)).2.rxbuf 0 ≠ Memory.read (receiving 16 3 1).rxbuf 0) ∧
    (view (fun s => s.block.rxbuf) (exec (.evtRxb 0x41) (withBlock (receiving 16 3 1))) =
      some [(0, 0x41)]) ∧
    view (fun s => s.block.rxMax) (exec (.reqRecv 9) plain) = some 9 := by decide

theorem test_witness_TxcEndsTheTransmission :
    ((sending false).block.phase = .transmitting ∧ (sending false).block.rxv = false) ∧
    ((sending true).block.phase = .transmitting ∧ (sending true).block.rxv = true ∧
      (sending true).env.tick.toNat + flat.byteTimeout.toNat < 2 ^ 32) ∧
    plain.block.phase ≠ .transmitting := by decide

theorem test_witness_RxbFollowsTheDecoder :
    ((withBlock (receiving 16 0 0)).block.phase = .receiving ∧
      (decodeStep 0x55 (receiving 16 0 0)).1 = .cont ∧
      plain.env.tick.toNat + flat.byteTimeout.toNat < 2 ^ 32) ∧
    (decodeStep 0x11 (receiving 16 1 0)).1 = .error ∧ (decodeStep 0xFF (receiving 16 2 0)).1 = .complete ∧
    plain.block.phase ≠ .receiving := by decide

theorem test_witness_LineFaultLatchesError :
    (sending true).block.phase ≠ .idle ∧ plain.block.phase = .idle := by decide

theorem test_witness_EventsWithoutARowAreIgnored :
    complete.block.phase ≠ .transmitting ∧ complete.block.phase ≠ .receiving ∧
    plain.block.phase = .idle := by decide

/-- At the boundary: a sum of 2^32 and one of 2^32 - 1. -/
theorem test_witness_DeadlineBeyondTheRegisterIsRefused :
    2 ^ 32 ≤ (at_ 0xFFFFFFCE plain).env.tick.toNat + flat.byteTimeout.toNat ∧
    plain.block.phase = .idle ∧
    ((sending true).block.phase = .transmitting ∧ (sending true).block.rxv = true) ∧
    ((late 0).block.phase = .receiving ∧ (decodeStep 0x55 (late 0).block).1 = .cont) ∧
    (at_ 0xFFFFFFCD plain).env.tick.toNat + flat.byteTimeout.toNat < 2 ^ 32 := by decide

theorem test_witness_PollWithNothingToDoChangesNothing :
    plain.block.phase = .idle ∧ (sending true).block.phase = .transmitting ∧
    ((at_ 0 (late 0)).block.phase = .receiving ∧
      (at_ 0 (late 0)).env.tick.toNat ≤ (at_ 0 (late 0)).block.deadline.toNat) := by decide

theorem test_witness_PollRetransmitsAfterSilence :
    (late 2).block.phase = .receiving ∧ (late 2).block.deadline.toNat < (late 2).env.tick.toNat ∧
    (late 2).block.retry ≠ 0#8 := by decide

theorem test_witness_PollTimesOutAfterTheLastRetry :
    (late 0).block.phase = .receiving ∧ (late 0).block.deadline.toNat < (late 0).env.tick.toNat ∧
    (late 0).block.retry = 0#8 := by decide

theorem test_witness_PollChecksTheCompleteFrame : complete.block.phase = .receivedAwaitingCrc := by decide

theorem test_witness_SendIsRejectedInTheOrderOfItsChecks :
    complete.block.phase ≠ .idle ∧ plain.block.phase = .idle ∧ (1 : Byte) ≠ 0#8 ∧
    255 < (zeros 256).length := by
  simp only [zeros_length]; decide

theorem test_witness_SendStagesAndTransmits :
    plain.block.phase = .idle ∧ (zeros 255).length ≤ 255 ∧ Memory.wf plain.block.txpay = true := by
  simp only [zeros_length]; decide

theorem test_witness_RecvOpensAReception :
    (plain.block.phase = .idle ∧ plain.env.tick.toNat + flat.byteTimeout.toNat < 2 ^ 32) ∧
    complete.block.phase ≠ .idle ∧
    ((0x12 : ReqWord).toNat % 16 = 2 ∧ (0x12 : ReqWord) &&& 0xFFFF0000FFFFFFFF ≠ 2) := by decide

theorem test_witness_GetStatusReportsBusyOrTheLatch :
    plain.block.phase = .idle ∧ complete.block.phase ≠ .idle := by decide

theorem test_witness_GetRxlenAnswersTheLengthWhenValid :
    ((withBlock { receiving 4 4 1 with phase := .idle }).block.phase = .idle ∧
      (withBlock { receiving 4 4 1 with phase := .idle }).block.status = .ok ∧
      (withBlock { receiving 4 4 1 with phase := .idle }).block.rxv = true) ∧
    ¬ (plain.block.phase = .idle ∧ (plain.block.status = .ok ∨ plain.block.status = .crcError) ∧
      plain.block.rxv = true) := by decide

theorem test_witness_AsyncCallsActAsTheirRequests :
    plain.block.phase = .idle ∧ (zeros 255).length ≤ 255 ∧
    plain.env.tick.toNat + flat.byteTimeout.toNat < 2 ^ 32 := by
  simp only [zeros_length]; decide

theorem test_witness_SyncRoutinesBeginWithTheirRequest :
    plain.block.phase = .idle ∧ (zeros 255).length ≤ 255 ∧ complete.block.phase ≠ .idle ∧
    (1 : Byte) ≠ 0#8 ∧ 255 < (zeros 256).length ∧
    plain.env.tick.toNat + flat.byteTimeout.toNat < 2 ^ 32 := by
  simp only [zeros_length]; decide

/-- `given .resume` in a routine at a line. -/
def atRoutine (x : Stimulus) (line : Routine) : State := { given x with host := ⟨[line], none⟩ }

theorem test_witness_SendAndReceiveSyncLoopsToItsReturn :
    (∀ line ∈ [Routine.srsPoll, .srsStatus, .srsLength], (atRoutine .resume line).inputs = [⟨7, .resume⟩] ∧
      (atRoutine .resume line).host.calls = [line]) ∧ plain.env.tick.toNat ≤ (7 : Tick).toNat := by decide

theorem test_witness_ReceiveAndReplySyncLoopsToItsReturn :
    (∀ line ∈ [Routine.rrsPoll, .rrsStatus, .rrsLength, .rrsHandler 4, .rrsReplyPoll, .rrsReplyStatus],
      (atRoutine .resume line).inputs = [⟨7, .resume⟩] ∧ (atRoutine .resume line).host.calls = [line]) ∧
    (atRoutine (.handlerReply [0x41]) (.rrsHandler 4)).inputs = [⟨7, .handlerReply [0x41]⟩] ∧
    (atRoutine (.handlerReply [0x41]) (.rrsHandler 4)).host.calls = [.rrsHandler 4] ∧
    plain.env.tick.toNat ≤ (7 : Tick).toNat := by decide

/-- A reception just opened, with the frame of one byte to come. -/
theorem test_witness_FrameOnTheLineIsCheckedAtThePoll :
    Memory.wf (receiving 1 0 0).rxbuf = true ∧ (withBlock (receiving 1 0 0)).block.phase = .receiving ∧
    (receiving 1 0 0).rxCnt = 0#9 ∧ plain.env.pending = [] ∧ [0x41#8].length ≤ 255 ∧
    [0x41#8].length ≤ (receiving 1 0 0).rxMax.toNat ∧ plain.env.tick.toNat ≤ (7 : Tick).toNat ∧
    (7 : Tick).toNat + flat.byteTimeout.toNat < 2 ^ 32 ∧
    { withBlock (receiving 1 0 0) with inputs := frameThenPoll 7 [0x55, 1, 0, 0x41] }.inputs =
      frameThenPoll 7 ([0x55, BitVec.ofNat 8 [0x41#8].length, 0] ++ [0x41]) := by decide

/-- One retry left, deadline 0, timeout 50: polled at 8, retransmitted until 20, and polled at 71, the first
tick past the new deadline 70. With no retry left, polled at the largest tick. -/
theorem test_witness_SilentPeerEndsInTimeoutAfterAllRetries :
    ((late 1).block.phase = .receiving ∧ (late 1).block.rxv = true ∧ (late 1).env.pending = [] ∧
      [((8 : Tick), (20 : Tick))].length = (late 1).block.retry.toNat ∧
      silentTicks flat.byteTimeout.toNat (late 1).block.deadline.toNat (late 1).env.tick.toNat [(8, 20)] 71 ∧
      { late 1 with inputs := silentPeer [(8, 20)] 71 }.inputs = silentPeer [(8, 20)] 71) ∧
    ((late 0).block.phase = .receiving ∧ (0 : Nat) = (late 0).block.retry.toNat ∧
      silentTicks flat.byteTimeout.toNat (late 0).block.deadline.toNat (late 0).env.tick.toNat [] 0xFFFFFFFF) := by
  unfold silentTicks silentTicks; decide

/-- A reception in the middle of a payload, at whose next step a byte comes. -/
def midFrame : State :=
  { withBlock { receiving 4 4 2 with rxbuf := [(0, 0x41)] } with
    env := { plain.env with armed := true }, inputs := [⟨7, .port (.event 0x0242)⟩] }

theorem test_witness_InvariantIsKeptByEveryStep :
    Inv midFrame ∧ ∃ t, step midFrame = .next t ∧ t.block.phase = .receivedAwaitingCrc := by
  refine ⟨⟨⟨fun _ _ => by decide, fun _ => by decide, fun h => ?_, fun _ => rfl, fun _ h => ?_,
    fun h => ?_, fun h => ?_, by decide, by decide⟩, fun h => ?_, fun _ => rfl⟩, ⟨_, rfl, rfl⟩⟩
  · exact absurd h (by decide)
  · exact absurd rfl h
  · rcases h with h | h
    · exact absurd h (by decide)
    · exact absurd rfl h.2
  · exact absurd h (by decide)
  · exact absurd h (by decide)

theorem test_witness_InvariantHoldsAfterReset :
    Memory.wf ResetDraw.chosen.txpay = true ∧ Memory.wf ResetDraw.chosen.rxbuf = true := by decide

/-- Each operation that changes PHASE does so in some state: the rows T1 to T11. -/
theorem test_witness_PhaseChangesAreRowsOfTheTable :
    view (fun s => s.block.phase) (exec (.reqSend true 1 4 []) plain) = some .transmitting ∧
    view (fun s => s.block.phase) (exec (.reqRecv 4) plain) = some .receiving ∧
    view (fun s => s.block.phase) (exec .reqPoll (late 1)) = some .transmitting ∧
    view (fun s => s.block.phase) (exec .reqPoll (late 0)) = some .idle ∧
    view (fun s => s.block.phase) (exec .evtTxc (sending true)) = some .receiving ∧
    view (fun s => s.block.phase) (exec .evtTxc (sending false)) = some .idle ∧
    view (fun s => s.block.phase) (exec (.evtRxb 0) (withBlock (receiving 4 2 0))) =
      some .receivedAwaitingCrc := by decide

theorem test_witness_StatusIsWrittenOnlyAtTheEndOfAnOperation :
    ∃ t, step { late 0 with inputs := [pollAt 7] } = .next t ∧ t.block.status ≠ (late 0).block.status :=
  ⟨_, rfl, by decide⟩

/-- One state for each rejection code. -/
theorem test_witness_RejectionsChangeNothing :
    (∃ t w, exec (.reqRecv 4) complete = .next t ∧ t.out.resp = some w ∧ w.getLsbD 3 = true) ∧
    (∃ t w, exec (.reqSend false 1 4 []) plain = .next t ∧ t.out.resp = some w ∧ w.getLsbD 3 = true) ∧
    (∃ t w, exec (.reqCrc8 (zeros 256)) plain = .next t ∧ t.out.resp = some w ∧ w.getLsbD 3 = true) ∧
    (∃ t w, exec (.reqReserved 6) plain = .next t ∧ t.out.resp = some w ∧ w.getLsbD 3 = true) :=
  ⟨⟨_, 0x0009, rfl, rfl, rfl⟩, ⟨_, 0x000D, rfl, rfl, rfl⟩, ⟨_, 0x000E, long_CRC8, rfl, rfl⟩,
    ⟨_, 0x000F, rfl, rfl, rfl⟩⟩

theorem test_witness_ConfigurationIsNeverWritten : ∃ t, step midFrame = .next t := ⟨_, rfl⟩

theorem test_witness_RetryIsTakenOnlyByARetransmission :
    ∃ t, step { late 1 with inputs := [pollAt 7] } = .next t ∧ (late 1).block.phase ≠ .idle ∧
      t.block.retry ≠ (late 1).block.retry := ⟨_, rfl, by decide, by decide⟩

theorem test_witness_CarrierIsOnOnlyWhileTransmitting :
    carrierQuiet (sending false).block ∧ ∃ t, exec .evtTxc (sending false) = .next t ∧
      t.block.carrier ≠ (sending false).block.carrier := ⟨fun _ => rfl, _, rfl, by decide⟩

theorem test_witness_StagedFrameChangesOnlyBySend :
    ∃ t, exec (.reqSend false 0 0 [0x41]) plain = .next t ∧ t.block.txLen ≠ plain.block.txLen :=
  ⟨_, rfl, by decide⟩

theorem test_witness_MemoriesStayCanonical :
    Memory.wf midFrame.block.txpay = true ∧ Memory.wf midFrame.block.rxbuf = true ∧
    ∃ t, exec (.evtRxb 0x42) midFrame = .next t ∧ t.block.rxbuf = [(0, 0x41), (1, 0x42)] :=
  ⟨by decide, by decide, _, rfl, by decide⟩

theorem test_witness_TicksNeverDecrease : ∃ t, step midFrame = .next t ∧ t.env.tick = 7 := ⟨_, rfl, rfl⟩

theorem test_witness_HostWritesRxbufOnlyInIdle :
    (given (.hostWrite 255 1)).inputs = [⟨7, .hostWrite 255 1⟩] ∧ plain.env.tick.toNat ≤ (7 : Tick).toNat ∧
    Memory.wf plain.block.rxbuf = true ∧ plain.block.phase = .idle ∧ complete.block.phase ≠ .idle := by
  decide

end Sys2Proof.Tests
end

