-- ==== Sys2Proof/Proofs/Scope.lean ====
section
/-! The statements of 00_scope.md: what a step takes as its input, and the configuration it works with. -/

namespace Sys2Proof.Proofs

open Sys2Proof.Machine

/-! ## How the next input is taken -/

theorem fetch_of_no_input {s : State} (hin : s.inputs = []) : fetch s = .idle := by
  rw [fetch, hin]

/-- An input whose tick has not decreased comes to what its stimulus comes to (R87). -/
theorem fetch_of_input {s : State} {x : Input} {rest : List Input} (hin : s.inputs = x :: rest)
    (htick : s.env.tick.toNat ≤ x.now.toNat) :
    fetch s = fetchStimulus x.what (present x rest s) := by
  have hnot : ¬ x.now < s.env.tick := by rw [BitVec.lt_def]; omega
  rw [fetch, hin]
  exact if_neg hnot

theorem fetchPending_of_oldest {s : State} {w : EvtWord} {later : List EvtWord}
    (hpending : s.env.pending = w :: later) :
    fetchPending s = .run (decodeEvent w) { s with env := { s.env with pending := later } } := by
  rw [fetchPending, hpending]

/-- A form that decodes is run as the operation it decodes to; an event only where no earlier one waits
(R219). -/
theorem fetchPort_of_decode {form : Encoded} {i : Instr} {s : State} (hdecode : decode form = .instr i)
    (hfirst : ∀ w, form = .event w → s.env.pending = []) : fetchPort form s = .run i s := by
  cases form with
  | request w payload => rw [fetchPort, hdecode]
  | wire bytes => rw [fetchPort, hdecode]
  | event w =>
    have hnone : s.env.pending = [] := hfirst w rfl
    have hi : decodeEvent w = i := Decoded.instr.inj hdecode
    have hqueue : s.env.pending ++ [w] = [w] := by rw [hnone, List.nil_append]
    rw [fetchPort, fetchPending_of_oldest hqueue, hi, ← hnone]

theorem fetchStimulus_of_call {op : Instr} {s : State} (hapi : op.isApi = true) (hwf : op.wf = true) :
    fetchStimulus (.call op) s = .run op s := by
  simp [fetchStimulus, hapi, hwf]

/-! ## A step by what its input comes to -/

theorem step_of_fetch_idle {s : State} (h : fetch s = .idle) : step s = .next (quiet s) := by
  rw [step, h]

theorem step_of_fetch_run {s t : State} {i : Instr} (h : fetch s = .run i t) : step s = exec i t := by
  rw [step, h]

/-! ## The configuration -/

/-- Every effect is made of updates of the block, the environment, the counter of draws and the output. -/
theorem effect_params {i : Instr} {s t : State} (h : Effect i s t) : t.params = s.params := by
  cases h <;> rfl

theorem exec_params {i : Instr} {s t : State} (h : exec i s = .next t) : t.params = s.params := by
  obtain ⟨u, heffect, ht⟩ := exec_effect h
  calc t.params = u.params := by rw [ht]
    _ = s.params := effect_params heffect

/-! ## The statements -/

/-- Settles O52: taking an input, the operations and the host's write of RXBUF each keep the
configuration. -/
theorem configurationIsNeverWritten : Obligations.ConfigurationIsNeverWritten := by
  intro s t h
  rcases step_cases h with
    ⟨-, rfl⟩ | ⟨x, rest, -, -, ⟨i, pending, u, -, hexec, ht⟩ | rfl | ⟨o, v, -, -, rfl⟩⟩
  · exact quiet_params s
  · calc t.params = u.params := by rw [ht]
      _ = (taken x rest pending s).params := exec_params hexec
      _ = s.params := rfl
  · exact present_params x rest s
  · exact present_params x rest s

/-- Settles O8: each of the four kinds of input is fetched as the operation it stands for. -/
theorem stepRunsTheDecodedOperation : Obligations.StepRunsTheDecodedOperation := by
  intro s now what rest i hin htick hkind
  have hrun : fetchStimulus what (present ⟨now, what⟩ rest s) = .run i (present ⟨now, what⟩ rest s) := by
    rcases hkind with ⟨w, p, rfl, hdecode⟩ | ⟨bytes, rfl, hdecode⟩ | ⟨w, rfl, hnone, hdecode⟩ |
      ⟨rfl, hapi, hwf⟩
    · exact fetchPort_of_decode hdecode (by simp)
    · exact fetchPort_of_decode hdecode (by simp)
    · exact fetchPort_of_decode hdecode fun _ _ => hnone
    · exact fetchStimulus_of_call hapi hwf
  exact step_of_fetch_run ((fetch_of_input hin htick).trans hrun)

/-- Settles O11: with no input `fetch` is idle, and the step only clears the output. -/
theorem withoutInputNothingHappens : Obligations.WithoutInputNothingHappens :=
  fun _ hin => step_of_fetch_idle (fetch_of_no_input hin)

end Sys2Proof.Proofs
end

section
/-! The statements of 10_state.md: the state after reset, what every step keeps, who writes STATUS, RETRY,
CARRIER and the staged frame, the answers of GET_STATUS and GET_RXLEN, and the queue of events. -/

namespace Sys2Proof.Proofs

open Sys2Proof.Machine Sys2Proof.Safety

/-! ## The registers that DECODE_STEP, SEND and the retransmission write -/

section DecodeStep

variable (b : Byte) (k : Block)

@[simp] theorem decodeStep_phase : (decodeStep b k).2.phase = k.phase := by
  rw [decodeStep_frame]

@[simp] theorem decodeStep_status : (decodeStep b k).2.status = k.status := by
  rw [decodeStep_frame]

@[simp] theorem decodeStep_txLen : (decodeStep b k).2.txLen = k.txLen := by
  rw [decodeStep_frame]

@[simp] theorem decodeStep_txCrc : (decodeStep b k).2.txCrc = k.txCrc := by
  rw [decodeStep_frame]

@[simp] theorem decodeStep_txpay : (decodeStep b k).2.txpay = k.txpay := by
  rw [decodeStep_frame]

@[simp] theorem decodeStep_rxv : (decodeStep b k).2.rxv = k.rxv := by
  rw [decodeStep_frame]

@[simp] theorem decodeStep_rxMax : (decodeStep b k).2.rxMax = k.rxMax := by
  rw [decodeStep_frame]

@[simp] theorem decodeStep_retry : (decodeStep b k).2.retry = k.retry := by
  rw [decodeStep_frame]

@[simp] theorem decodeStep_carrier : (decodeStep b k).2.carrier = k.carrier := by
  rw [decodeStep_frame]

end DecodeStep

section Sending

variable (e : Bool) (r : Byte) (m : Len) (p : List Byte) (s : State)

@[simp] theorem sendEffects_params : (sendEffects e r m p s).params = s.params := rfl

@[simp] theorem sendEffects_block : (sendEffects e r m p s).block =
    { encodeFrame s.params.crcTable p s.block with
      rxv := e, rxMax := m, retry := r, phase := .transmitting, carrier := true } := rfl

@[simp] theorem sendEffects_sending : (sendEffects e r m p s).env.sending = s.env.sending ++
    [frameBytes (crc8 s.params.crcTable p) p] := rfl

@[simp] theorem sendEffects_actions : (sendEffects e r m p s).out.actions = s.out.actions ++
    [.carrierStart] ++ [.txStart (frameBytes (crc8 s.params.crcTable p) p)] := rfl

@[simp] theorem retransmit_params : (retransmit s).params = s.params := rfl

@[simp] theorem retransmit_block : (retransmit s).block =
    { s.block with retry := s.block.retry - 1#8, phase := .transmitting, carrier := true } := rfl

@[simp] theorem retransmit_sending :
    (retransmit s).env.sending = s.env.sending ++ [staged s.block] := rfl

@[simp] theorem retransmit_actions : (retransmit s).out.actions =
    s.out.actions ++ [.carrierStart] ++ [.txStart (staged s.block)] := rfl

end Sending

/-! ## The decoder's count and length (I3 to I5 of R38) -/

/-- I3: from RX_CNT = 2 on the length field is one that was accepted against RX_MAX. -/
def lengthAccepted (k : Block) : Prop := 2 ≤ k.rxCnt.toNat → k.rxLen.toNat ≤ k.rxMax.toNat

/-- I4: the header is not whole yet, or payload bytes are still missing. -/
def payloadMissing (k : Block) : Prop :=
  k.rxCnt.toNat ≤ 2 ∨ (3 ≤ k.rxCnt.toNat ∧ k.rxCnt.toNat < 3 + k.rxLen.toNat)

/-- One more payload byte: RX_CNT has 9 bits and a frame at most 258 bytes, so it does not wrap. -/
theorem rxCnt_succ {k : Block} (h : k.rxCnt.toNat < 3 + k.rxLen.toNat) :
    (k.rxCnt + 1#9).toNat = k.rxCnt.toNat + 1 := by
  have hlen : k.rxLen.toNat < 256 := k.rxLen.isLt
  bv_omega

theorem lengthAccepted_of_header {k : Block} (h : k.rxCnt.toNat < 2) : lengthAccepted k :=
  fun h2 => absurd h2 (Nat.not_le.2 h)

/-- The length byte is compared before it is stored, and later bytes leave it (R115). -/
theorem decodeStep_lengthAccepted {b : Byte} {k : Block} (h : lengthAccepted k) :
    lengthAccepted (decodeStep b k).2 := by
  rcases decodeStep_cases b k with ⟨-, -, e⟩ | ⟨-, -, e⟩ | ⟨-, -, e⟩ | ⟨-, hle, e⟩ | ⟨hcnt, e⟩ |
    ⟨hge, -, e⟩ | ⟨-, -, e⟩
  · rw [e]; exact lengthAccepted_of_header Nat.one_lt_two
  · rw [e]; exact h
  · rw [e]; exact h
  · rw [e]; exact fun _ => hle
  · rw [e]; exact fun _ => h (by rw [hcnt]; decide)
  · rw [e]; exact fun _ => h (Nat.le_of_succ_le hge)
  · rw [e]; exact h

/-- While the decoder answers `continue` the frame is not whole (R116, R117). -/
theorem decodeStep_payloadMissing {b : Byte} {k : Block} (hcont : (decodeStep b k).1 = .cont) :
    payloadMissing (decodeStep b k).2 := by
  rcases decodeStep_cases b k with ⟨-, -, e⟩ | ⟨hcnt, -, e⟩ | ⟨-, -, e⟩ | ⟨-, -, e⟩ | ⟨-, e⟩ |
    ⟨hge, hlt, e⟩ | ⟨-, -, e⟩ <;> rw [e] at hcont ⊢
  · exact .inl one_le_two
  · exact .inl (by rw [hcnt]; decide)
  · cases hcont
  · exact .inl (le_refl 2)
  · have hlen : k.rxLen ≠ 0#8 := by intro h; simp [h] at hcont
    have hpos : 0 < k.rxLen.toNat := by bv_omega
    exact .inr ⟨le_refl 3, Nat.lt_add_of_pos_right hpos⟩
  · have hmore : k.rxCnt.toNat + 1 ≠ 3 + k.rxLen.toNat := by intro h; simp [h] at hcont
    refine .inr ?_
    simp only [rxCnt_succ hlt]
    omega
  · cases hcont

/-- The decoder answers `complete` when the last payload byte is stored (R116, R118). -/
theorem decodeStep_complete_count {b : Byte} {k : Block} (hdone : (decodeStep b k).1 = .complete) :
    (decodeStep b k).2.rxCnt.toNat = 3 + (decodeStep b k).2.rxLen.toNat := by
  rcases decodeStep_cases b k with ⟨-, -, e⟩ | ⟨-, -, e⟩ | ⟨-, -, e⟩ | ⟨-, -, e⟩ | ⟨-, e⟩ |
    ⟨-, hlt, e⟩ | ⟨-, -, e⟩ <;> rw [e] at hdone ⊢
  · cases hdone
  · cases hdone
  · cases hdone
  · cases hdone
  · have hlen : k.rxLen = 0#8 := by by_contra h; simp [h] at hdone
    simp [hlen]
  · have hlast : k.rxCnt.toNat + 1 = 3 + k.rxLen.toNat := by by_contra h; simp [h] at hdone
    exact (rxCnt_succ hlt).trans hlast
  · cases hdone

/-! ## What the invariant of R38 asks in each phase -/

theorem blockInv_of_idle {p : Parameters} {k : Block} (hphase : k.phase = .idle)
    (htxpay : Memory.wf k.txpay = true) (hrxbuf : Memory.wf k.rxbuf = true) : BlockInv p k where
  lengthBounded h := by simp [receivingOrComplete, hphase] at h
  countOpen h := by simp [hphase] at h
  countComplete h := by simp [hphase] at h
  replyExpected h := by simp [receivingOrComplete, hphase] at h
  retryHasBuffer h := by simp [hphase] at h
  stagedEncoded h := by simp [mayTransmit, hphase] at h
  carrierKeyed h := by simp [hphase] at h
  txpayWf := htxpay
  rxbufWf := hrxbuf

theorem blockInv_of_transmitting {p : Parameters} {k : Block} (hphase : k.phase = .transmitting)
    (hretry : k.retry ≠ 0 → k.rxv = true) (hcrc : k.txCrc = crc8 p.crcTable (stagedPayload k))
    (hcarrier : k.carrier = true) (htxpay : Memory.wf k.txpay = true)
    (hrxbuf : Memory.wf k.rxbuf = true) : BlockInv p k where
  lengthBounded h := by simp [receivingOrComplete, hphase] at h
  countOpen h := by simp [hphase] at h
  countComplete h := by simp [hphase] at h
  replyExpected h := by simp [receivingOrComplete, hphase] at h
  retryHasBuffer _ := hretry
  stagedEncoded _ := hcrc
  carrierKeyed _ := hcarrier
  txpayWf := htxpay
  rxbufWf := hrxbuf

theorem blockInv_of_receiving {p : Parameters} {k : Block} (hphase : k.phase = .receiving)
    (hlen : lengthAccepted k) (hopen : payloadMissing k) (hrxv : k.rxv = true)
    (hcrc : k.retry ≠ 0 → k.txCrc = crc8 p.crcTable (stagedPayload k))
    (htxpay : Memory.wf k.txpay = true) (hrxbuf : Memory.wf k.rxbuf = true) : BlockInv p k where
  lengthBounded _ := hlen
  countOpen _ := hopen
  countComplete h := by simp [hphase] at h
  replyExpected _ := hrxv
  retryHasBuffer h := by simp [hphase] at h
  stagedEncoded h := hcrc (by simpa [mayTransmit, hphase] using h)
  carrierKeyed h := by simp [hphase] at h
  txpayWf := htxpay
  rxbufWf := hrxbuf

theorem blockInv_of_complete {p : Parameters} {k : Block} (hphase : k.phase = .receivedAwaitingCrc)
    (hlen : lengthAccepted k) (hcount : k.rxCnt.toNat = 3 + k.rxLen.toNat) (hrxv : k.rxv = true)
    (htxpay : Memory.wf k.txpay = true) (hrxbuf : Memory.wf k.rxbuf = true) : BlockInv p k where
  lengthBounded _ := hlen
  countOpen h := by simp [hphase] at h
  countComplete _ := hcount
  replyExpected _ := hrxv
  retryHasBuffer h := by simp [hphase] at h
  stagedEncoded h := by simp [mayTransmit, hphase] at h
  carrierKeyed h := by simp [hphase] at h
  txpayWf := htxpay
  rxbufWf := hrxbuf

/-! ## The block's changes keep the invariant -/

/-- An accepted SEND stages a frame that ENCODE made (R183, R111). -/
theorem blockInv_sent {p : Parameters} {k : Block} (hk : BlockInv p k) (e : Bool) (r : Byte) (m : Len)
    (payload : List Byte) (hlegal : e = true ∨ r = 0#8) (hshort : payload.length ≤ Config.maxLen) :
    BlockInv p { encodeFrame p.crcTable payload k with
      rxv := e, rxMax := m, retry := r, phase := .transmitting, carrier := true } := by
  refine blockInv_of_transmitting rfl (fun hr => hlegal.resolve_right hr) ?_ rfl ?_ hk.rxbufWf
  · have hstaged := stagedPayload_encodeFrame (table := p.crcTable) hk.txpayWf hshort
    exact congrArg (crc8 p.crcTable) hstaged.symm
  · refine Memory.wf_writeList hk.txpayWf ?_
    rw [Nat.zero_add]
    exact hshort.trans (by decide)

/-- An accepted RECV opens a reception with no retry (R186). -/
theorem blockInv_opened {p : Parameters} {k : Block} (hk : BlockInv p k) (m : Len) (d : Tick) :
    BlockInv p { k with
      rxv := true, rxMax := m, retry := 0#8, phase := .receiving, rxCnt := 0#9, deadline := d } :=
  blockInv_of_receiving rfl (lengthAccepted_of_header Nat.zero_lt_two) (.inl (Nat.zero_le 2)) rfl
    (fun h => absurd rfl h) hk.txpayWf hk.rxbufWf

/-- The frame of a retransmission is the one that ENCODE made (R167). -/
theorem blockInv_retransmitted {p : Parameters} {k : Block} (hk : BlockInv p k)
    (hphase : k.phase = .receiving) (hleft : k.retry ≠ 0#8) :
    BlockInv p { k with retry := k.retry - 1#8, phase := .transmitting, carrier := true } :=
  blockInv_of_transmitting rfl (fun _ => hk.replyExpected (.inl hphase))
    (hk.stagedEncoded (.inr ⟨hphase, hleft⟩)) rfl hk.txpayWf hk.rxbufWf

/-- After the transmission the reception of the reply opens (R133, R134). -/
theorem blockInv_txReply {p : Parameters} {k : Block} (hk : BlockInv p k)
    (hphase : k.phase = .transmitting) (hrxv : k.rxv = true) (d : Tick) :
    BlockInv p { k with carrier := false, phase := .receiving, rxCnt := 0#9, deadline := d } :=
  blockInv_of_receiving rfl (lengthAccepted_of_header Nat.zero_lt_two) (.inl (Nat.zero_le 2)) hrxv
    (fun _ => hk.stagedEncoded (.inl hphase)) hk.txpayWf hk.rxbufWf

/-- A byte after which the reception goes on (R137). -/
theorem blockInv_rxContinued {p : Parameters} {k : Block} {b : Byte} (hk : BlockInv p k)
    (hphase : k.phase = .receiving) (hcont : (decodeStep b k).1 = .cont) (d : Tick) :
    BlockInv p { (decodeStep b k).2 with deadline := d } := by
  refine blockInv_of_receiving ((decodeStep_phase b k).trans hphase)
    (decodeStep_lengthAccepted (hk.lengthBounded (.inl hphase))) (decodeStep_payloadMissing hcont)
    ((decodeStep_rxv b k).trans (hk.replyExpected (.inl hphase))) ?_ ?_ (decodeStep_wf hk.rxbufWf)
  · intro hleft
    simp only [decodeStep_retry] at hleft
    simpa [stagedPayload] using hk.stagedEncoded (.inr ⟨hphase, hleft⟩)
  · simpa using hk.txpayWf

/-- The byte that completes the frame (R137). -/
theorem blockInv_rxCompleted {p : Parameters} {k : Block} {b : Byte} (hk : BlockInv p k)
    (hphase : k.phase = .receiving) (hdone : (decodeStep b k).1 = .complete) :
    BlockInv p { (decodeStep b k).2 with phase := .receivedAwaitingCrc } := by
  refine blockInv_of_complete rfl (decodeStep_lengthAccepted (hk.lengthBounded (.inl hphase)))
    (decodeStep_complete_count hdone)
    ((decodeStep_rxv b k).trans (hk.replyExpected (.inl hphase))) ?_ (decodeStep_wf hk.rxbufWf)
  simpa using hk.txpayWf

/-! ## The invariant of the machine -/

/-- In `Idle` the environment owes nothing. -/
theorem inv_of_idle {s : State} (hphase : s.block.phase = .idle)
    (htxpay : Memory.wf s.block.txpay = true) (hrxbuf : Memory.wf s.block.rxbuf = true) : Inv s where
  block := blockInv_of_idle hphase htxpay hrxbuf
  txOwed h := by simp [hphase] at h
  rxArmed h := by simp [hphase] at h

/-- `Inv` reads the configuration, the block, the frames being sent and the armed receive. -/
theorem inv_of_agree {s t : State} (hs : Inv s) (hparams : t.params = s.params)
    (hblock : t.block = s.block) (hsending : t.env.sending = s.env.sending)
    (harmed : t.env.armed = s.env.armed) : Inv t where
  block := by rw [hparams, hblock]; exact hs.block
  txOwed := by rw [hblock, hsending]; exact hs.txOwed
  rxArmed := by rw [hblock, harmed]; exact hs.rxArmed

theorem effect_inv {i : Instr} {s t : State} (hext : ¬ isInternal i) (h : Effect i s t) (hs : Inv s) :
    Inv t := by
  have hk := hs.block
  cases h with
  | answered o _ _ => exact inv_of_agree hs rfl rfl rfl rfl
  | freeLength _ => exact inv_of_agree hs rfl rfl rfl rfl
  | arrived _ => exact inv_of_agree hs rfl rfl rfl rfl
  | sent e r m p _ _ hlegal hshort =>
    exact ⟨blockInv_sent hk e r m p hlegal hshort, fun _ => by simp, fun h => nomatch h⟩
  | opened m _ _ _ => exact ⟨blockInv_opened hk m _, fun h => (nomatch h), fun _ => rfl⟩
  | retransmitted _ hphase _ hleft =>
    exact ⟨blockInv_retransmitted hk hphase hleft, fun _ => by simp, fun h => nomatch h⟩
  | timedOut _ _ _ _ => exact inv_of_idle rfl hk.txpayWf hk.rxbufWf
  | checked st _ _ => exact inv_of_idle rfl hk.txpayWf hk.rxbufWf
  | txIgnored _ hother => exact ⟨hk, fun h => absurd h hother, hs.rxArmed⟩
  | txOk _ _ _ => exact inv_of_idle rfl hk.txpayWf hk.rxbufWf
  | txReply _ hphase hrxv _ =>
    exact ⟨blockInv_txReply hk hphase hrxv _, fun h => (nomatch h), fun _ => rfl⟩
  | rxIgnored b _ hother => exact ⟨hk, hs.txOwed, fun h => absurd h hother⟩
  | rxContinued b _ hphase hcont _ =>
    refine ⟨blockInv_rxContinued hk hphase hcont _, fun h => ?_, fun _ => rfl⟩
    simp [hphase] at h
  | rxFailed b _ _ _ =>
    exact inv_of_idle rfl (by simpa using hk.txpayWf) (decodeStep_wf hk.rxbufWf)
  | rxCompleted b _ hphase hdone =>
    exact ⟨blockInv_rxCompleted hk hphase hdone, fun h => (nomatch h), fun h => nomatch h⟩
  | faultIgnored _ hidle => exact inv_of_idle hidle hk.txpayWf hk.rxbufWf
  | faulted _ _ => exact inv_of_idle rfl hk.txpayWf hk.rxbufWf
  | encoded p o hop _ _ _ => subst hop; exact absurd trivial hext
  | decoded b o hop _ _ => subst hop; exact absurd trivial hext

theorem exec_inv {i : Instr} {s t : State} (hext : ¬ isInternal i) (h : exec i s = .next t)
    (hs : Inv s) : Inv t := by
  obtain ⟨u, heffect, ht⟩ := exec_effect h
  rw [ht]
  exact inv_of_agree (effect_inv hext heffect hs) rfl rfl rfl rfl

/-! ## Who writes STATUS, RETRY, CARRIER and the staged frame -/

/-- STATUS is kept, or an operation ends (R23). -/
def statusKeptOrEnded (k k' : Block) : Prop :=
  k'.status = k.status ∨ (k.phase ≠ .idle ∧ k'.phase = .idle)

/-- RETRY is kept, no operation was in flight, or a retransmission starts and takes one retry (R31). -/
def retryKeptOrTaken (k k' : Block) : Prop :=
  k'.retry = k.retry ∨ k.phase = .idle ∨
    (k.phase = .receiving ∧ k'.phase = .transmitting ∧ k'.retry.toNat + 1 = k.retry.toNat)

/-- STATUS is written by `latch` alone, which ends an operation (R23, R223). -/
theorem effect_status {i : Instr} {s t : State} (h : Effect i s t) :
    statusKeptOrEnded s.block t.block := by
  cases h with
  | timedOut _ hphase => exact .inr ⟨by simp [hphase], rfl⟩
  | checked _ _ hphase => exact .inr ⟨by simp [hphase], rfl⟩
  | txOk _ hphase => exact .inr ⟨by simp [hphase], rfl⟩
  | rxFailed _ _ hphase => exact .inr ⟨by simp [hphase], rfl⟩
  | faulted _ hbusy => exact .inr ⟨hbusy, rfl⟩
  | rxContinued b => exact .inl (decodeStep_status b s.block)
  | rxCompleted b => exact .inl (decodeStep_status b s.block)
  | decoded b => exact .inl (decodeStep_status b s.block)
  | _ => exact .inl rfl

theorem retry_pred {r : Byte} (h : r ≠ 0#8) : (r - 1#8).toNat + 1 = r.toNat := by bv_omega

/-- RETRY is written by the requests that start an operation and by the retransmission (R31, R167). -/
theorem effect_retry {i : Instr} {s t : State} (h : Effect i s t) :
    retryKeptOrTaken s.block t.block := by
  cases h with
  | sent _ _ _ _ _ hidle => exact .inr (.inl hidle)
  | opened _ _ hidle => exact .inr (.inl hidle)
  | retransmitted _ hphase _ hleft => exact .inr (.inr ⟨hphase, rfl, retry_pred hleft⟩)
  | rxContinued b => exact .inl (decodeStep_retry b s.block)
  | rxFailed b => exact .inl (decodeStep_retry b s.block)
  | rxCompleted b => exact .inl (decodeStep_retry b s.block)
  | decoded b => exact .inl (decodeStep_retry b s.block)
  | _ => exact .inl rfl

/-- Everything an operation can do to CARRIER (R33, R86): it is keyed and `Transmitting` entered, it is
switched off, it stays and so does PHASE, it stays outside `Transmitting`, or a line fault leaves it as it
was (R252). -/
theorem effect_carrier {i : Instr} {s t : State} (h : Effect i s t) :
    (i ≠ .evtLerr ∧ t.block.phase = .transmitting ∧ t.block.carrier = true ∧
      .carrierStart ∈ t.out.actions) ∨
    (i ≠ .evtLerr ∧ t.block.carrier = false ∧ .carrierStop ∈ t.out.actions) ∨
    (t.block.carrier = s.block.carrier ∧
      (t.block.phase = s.block.phase ∨ s.block.phase ≠ .transmitting ∨
        (i = .evtLerr ∧ s.block.phase = .transmitting))) := by
  cases h with
  | sent _ _ _ _ hsend => exact .inl ⟨(by rintro rfl; exact hsend), rfl, rfl, by simp⟩
  | opened _ _ hidle => exact .inr (.inr ⟨rfl, .inr (.inl (by simp [hidle]))⟩)
  | retransmitted hcore => exact .inl ⟨(by rintro rfl; cases hcore), rfl, rfl, by simp⟩
  | timedOut _ hphase => exact .inr (.inr ⟨rfl, .inr (.inl (by simp [hphase]))⟩)
  | checked _ _ hphase => exact .inr (.inr ⟨rfl, .inr (.inl (by simp [hphase]))⟩)
  | txOk hop => exact .inr (.inl ⟨by simp [hop], rfl, by simp⟩)
  | txReply hop => exact .inr (.inl ⟨by simp [hop], rfl, by simp⟩)
  | rxContinued b =>
    exact .inr (.inr ⟨decodeStep_carrier b s.block, .inl (decodeStep_phase b s.block)⟩)
  | rxFailed b _ hphase =>
    exact .inr (.inr ⟨decodeStep_carrier b s.block, .inr (.inl (by simp [hphase]))⟩)
  | rxCompleted b _ hphase =>
    exact .inr (.inr ⟨decodeStep_carrier b s.block, .inr (.inl (by simp [hphase]))⟩)
  | faulted hop =>
    by_cases hphase : s.block.phase = .transmitting
    · exact .inr (.inr ⟨rfl, .inr (.inr ⟨hop, hphase⟩)⟩)
    · exact .inr (.inr ⟨rfl, .inr (.inl hphase)⟩)
  | decoded b =>
    exact .inr (.inr ⟨decodeStep_carrier b s.block, .inl (decodeStep_phase b s.block)⟩)
  | _ => exact .inr (.inr ⟨rfl, .inl rfl⟩)

/-- The staged frame is written by ENCODE alone, which runs in an accepted SEND (R65). -/
theorem effect_staged {i : Instr} {s t : State} (h : Effect i s t) :
    (t.block.txLen = s.block.txLen ∧ t.block.txCrc = s.block.txCrc ∧
      t.block.txpay = s.block.txpay) ∨
    (isSend i ∧ s.block.phase = .idle) ∨ ∃ p, i = .fnEncode p := by
  have hdecoder : ∀ b : Byte, (decodeStep b s.block).2.txLen = s.block.txLen ∧
      (decodeStep b s.block).2.txCrc = s.block.txCrc ∧
      (decodeStep b s.block).2.txpay = s.block.txpay :=
    fun b => ⟨decodeStep_txLen b s.block, decodeStep_txCrc b s.block, decodeStep_txpay b s.block⟩
  cases h with
  | sent _ _ _ _ hsend hidle => exact .inr (.inl ⟨hsend, hidle⟩)
  | rxContinued b => exact .inl (hdecoder b)
  | rxFailed b => exact .inl (hdecoder b)
  | rxCompleted b => exact .inl (hdecoder b)
  | encoded p _ hop => exact .inr (.inr ⟨p, hop⟩)
  | decoded b => exact .inl (hdecoder b)
  | _ => exact .inl ⟨rfl, rfl, rfl⟩

/-- A relation of the block before and after that every operation and the host's write of RXBUF in `Idle`
keep to holds of every step. -/
theorem step_block {R : Block → Block → Prop}
    (heffect : ∀ {i : Instr} {s t : State}, Effect i s t → R s.block t.block)
    (hsame : ∀ k, R k k) (hwrite : ∀ k m, k.phase = .idle → R k { k with rxbuf := m })
    {s t : State} (h : step s = .next t) : R s.block t.block := by
  rcases step_cases h with
    ⟨-, rfl⟩ | ⟨x, rest, -, -, ⟨i, pending, u, -, hexec, ht⟩ | rfl | ⟨o, v, -, hidle, rfl⟩⟩
  · exact hsame s.block
  · obtain ⟨u', heff, hu⟩ := exec_effect hexec
    have hR : R (taken x rest pending s).block u'.block := heffect heff
    rw [ht, hu]
    exact hR
  · exact hsame s.block
  · exact hwrite s.block _ hidle

/-! ## The answers of GET_STATUS and GET_RXLEN -/

theorem reported_of_idle {k : Block} (h : k.phase = .idle) : reported k = k.status.code := by
  rw [reported, if_pos h]

theorem reported_of_busy {k : Block} (h : k.phase ≠ .idle) : reported k = .busy := by
  rw [reported, if_neg h]

/-- No stored status is answered with the word of `Busy` (R23). -/
theorem statusWord_ne_busy (st : Status) : responseWord false st.code 0#8 ≠ 0x0001#16 := by
  cases st <;> decide

theorem responseWord_ok (v : Byte) : responseWord false .ok v = v ++ 0x00#8 := by
  apply BitVec.eq_of_toNat_eq
  simp only [responseWord, toNat_append_eq]
  simp [Code.bits]
  omega

theorem rxlenValid_iff (k : Block) : rxlenValid k = true ↔
    k.phase = .idle ∧ (k.status = .ok ∨ k.status = .crcError) ∧ k.rxv = true := by
  simp [rxlenValid, and_assoc]

/-! ## The queue of events -/

theorem fetchPending_of_none {s : State} (hpending : s.env.pending = []) :
    fetchPending s = .done (.next s) := by
  rw [fetchPending, hpending]

theorem step_of_fetch_done {s : State} {r : Result} (h : fetch s = .done r) : step s = r := by
  rw [step, h]

/-! ## The statements -/

/-- Settles O46: an operation keeps `Inv` by `exec_inv`, and the host writes RXBUF in `Idle` only. -/
theorem invariantIsKeptByEveryStep : Obligations.InvariantIsKeptByEveryStep := by
  intro s t hs h
  rcases step_cases h with
    ⟨-, rfl⟩ | ⟨x, rest, -, -, ⟨i, pending, u, hext, hexec, ht⟩ | rfl | ⟨o, v, -, hidle, rfl⟩⟩
  · exact inv_of_agree hs rfl rfl rfl rfl
  · have htaken : Inv (taken x rest pending s) := inv_of_agree hs rfl rfl rfl rfl
    rw [ht]
    exact inv_of_agree (exec_inv hext hexec htaken) rfl rfl rfl rfl
  · exact inv_of_agree hs rfl rfl rfl rfl
  · exact inv_of_idle hidle hs.block.txpayWf (Memory.wf_write hs.block.rxbufWf o.isLt)

/-- Settles O50: STATUS is `latch`'s. -/
theorem statusIsWrittenOnlyAtTheEndOfAnOperation :
    Obligations.StatusIsWrittenOnlyAtTheEndOfAnOperation := by
  intro s t h hchanged
  have hstatus : statusKeptOrEnded s.block t.block :=
    step_block effect_status (fun _ => .inl rfl) (fun _ _ _ => .inl rfl) h
  exact hstatus.resolve_left hchanged

/-- Settles O53: outside `Idle` only the retransmission writes RETRY. -/
theorem retryIsTakenOnlyByARetransmission : Obligations.RetryIsTakenOnlyByARetransmission := by
  intro s t h hbusy
  have hretry : retryKeptOrTaken s.block t.block :=
    step_block effect_retry (fun _ => .inl rfl) (fun _ _ _ => .inl rfl) h
  exact hretry.imp_right fun h => h.resolve_left hbusy

/-- Settles O54: the three clauses are read off the cases of `effect_carrier`. -/
theorem carrierIsOnOnlyWhileTransmitting : Obligations.CarrierIsOnOnlyWhileTransmitting := by
  intro i s t h
  obtain ⟨u, heffect, ht⟩ := exec_effect h
  rw [ht]
  rcases effect_carrier heffect with ⟨hop, hphase, hon, hstart⟩ | ⟨hop, hoff, hstop⟩ | ⟨hsame, hphase⟩
  · exact ⟨fun _ _ _ => hphase, fun h => absurd h hop, fun _ => .inl ⟨hon, hstart⟩⟩
  · refine ⟨fun _ _ hon => ?_, fun h => absurd h hop, fun _ => .inr ⟨hoff, hstop⟩⟩
    exact absurd (hoff.symm.trans hon) (by decide)
  · refine ⟨fun hquiet hnofault hon => ?_, fun _ => hsame, fun h => absurd hsame h⟩
    have hbefore : s.block.phase = .transmitting := hquiet (hsame.symm.trans hon)
    rcases hphase with hkept | hother | hfault
    · exact hkept.trans hbefore
    · exact absurd hbefore hother
    · exact absurd hfault hnofault

/-- Settles O55: outside SEND and ENCODE all three registers are kept, so none has changed. -/
theorem stagedFrameChangesOnlyBySend : Obligations.StagedFrameChangesOnlyBySend := by
  intro i s t h hchanged
  obtain ⟨u, heffect, ht⟩ := exec_effect h
  rw [ht] at hchanged
  refine (effect_staged heffect).resolve_left ?_
  rintro ⟨hlen, hcrc, hpay⟩
  rcases hchanged with hne | hne | hne
  · exact hne hlen
  · exact hne hcrc
  · exact hne hpay

/-- Settles O9: the oldest event is the head of the queue, and a new one is appended to it. -/
theorem eventsAreDeliveredOldestFirst : Obligations.EventsAreDeliveredOldestFirst := by
  intro s now rest w v later htick
  refine ⟨fun hin hpending => ?_, fun hin hpending => ?_, fun hin hpending => ?_⟩
  · exact step_of_fetch_run ((fetch_of_input hin htick).trans (fetchPending_of_oldest hpending))
  · refine step_of_fetch_run ((fetch_of_input hin htick).trans (fetchPending_of_oldest ?_))
    exact congrArg (· ++ [v]) hpending
  · exact step_of_fetch_done ((fetch_of_input hin htick).trans (fetchPending_of_none hpending))

/-- Settles O37: CODE is `reported`, and no stored status has the code of `Busy`. -/
theorem getStatusReportsBusyOrTheLatch : Obligations.GetStatusReportsBusyOrTheLatch := by
  intro s
  refine ⟨responseWord false (reported s.block) 0#8, rfl, ?_⟩
  by_cases hphase : s.block.phase = .idle
  · rw [reported_of_idle hphase]
    refine ⟨⟨fun hbusy => absurd hphase hbusy, fun h => absurd h (statusWord_ne_busy _)⟩, fun _ => ?_⟩
    cases s.block.status <;> rfl
  · rw [reported_of_busy hphase]
    exact ⟨⟨fun _ => rfl, fun _ => hphase⟩, fun h => absurd h hphase⟩

/-- Settles O38: the two clauses are the two cases of `readRxlen`. -/
theorem getRxlenAnswersTheLengthWhenValid : Obligations.GetRxlenAnswersTheLengthWhenValid := by
  intro s
  rcases readRxlen_cases s with ⟨hvalid, e⟩ | ⟨hnot, e⟩
  · refine ⟨fun _ _ _ => ?_, fun h => absurd ((rxlenValid_iff s.block).1 hvalid) h⟩
    rw [← responseWord_ok]
    exact congrArg Host.Outcome.next e
  · refine ⟨fun hphase hstatus hrxv => ?_, fun _ => ⟨Config.freeRxlen s.draws, ?_⟩⟩
    · have hvalid := (rxlenValid_iff s.block).2 ⟨hphase, hstatus, hrxv⟩
      exact absurd (hnot.symm.trans hvalid) (by decide)
    · rw [← responseWord_ok]
      exact congrArg Host.Outcome.next e

/-- Settles O47: reset leaves PHASE `Idle`, where the invariant asks for canonical memories only. -/
theorem invariantHoldsAfterReset : Obligations.InvariantHoldsAfterReset :=
  ⟨fun _ _ htxpay hrxbuf => inv_of_idle rfl htxpay hrxbuf, inv_of_idle rfl rfl rfl⟩

/-- Settles O59: `State.reset` is defined by `ResetDraw.chosen`, whose values these are. -/
theorem resetStateIsOneDrawOfTheReset : Obligations.ResetStateIsOneDrawOfTheReset := rfl

end Sys2Proof.Proofs
end

section
/-! The statements of 20_memory.md: who writes TXPAY and RXBUF and that they stay canonical, why a step is
refused, and a frame on the line from its arrival to the POLL that checks it. -/

namespace Sys2Proof.Proofs

open Sys2Proof.Machine Sys2Proof.Safety

/-! ## The canonical form of the memories -/

/-- Both memories of the block are in canonical form. -/
def memoriesCanonical (k : Block) : Prop := Memory.wf k.txpay = true ∧ Memory.wf k.rxbuf = true

/-- A payload of at most 255 bytes, stored from offset 0, is inside the 256 bytes of a space (R9). -/
theorem payload_fits_space {p : List Byte} (hshort : p.length ≤ Config.maxLen) :
    0 + p.length ≤ Config.spaceSize := by
  rw [Nat.zero_add]
  exact hshort.trans (by decide)

/-- ENCODE's writes are inside TXPAY (R111). -/
theorem encodeFrame_canonical {table : Vector Byte 256} {p : List Byte} {k : Block}
    (hshort : p.length ≤ Config.maxLen) (hk : memoriesCanonical k) :
    memoriesCanonical (encodeFrame table p k) := by
  obtain ⟨htxpay, hrxbuf⟩ := hk
  exact ⟨Memory.wf_writeList htxpay (payload_fits_space hshort), hrxbuf⟩

theorem decodeStep_canonical (b : Byte) {k : Block} (hk : memoriesCanonical k) :
    memoriesCanonical (decodeStep b k).2 := by
  obtain ⟨htxpay, hrxbuf⟩ := hk
  exact ⟨(congrArg Memory.wf (decodeStep_txpay b k)).trans htxpay, decodeStep_wf hrxbuf⟩

/-- The memories are written by ENCODE and DECODE_STEP alone (R111, R117). -/
theorem effect_canonical {i : Instr} {s t : State} (h : Effect i s t)
    (hs : memoriesCanonical s.block) : memoriesCanonical t.block := by
  cases h with
  | sent _ _ _ _ _ _ _ hshort => exact encodeFrame_canonical (table := s.params.crcTable) hshort hs
  | encoded _ _ _ hshort => exact encodeFrame_canonical hshort hs
  | rxContinued b => exact decodeStep_canonical b hs
  | rxFailed b => exact decodeStep_canonical b hs
  | rxCompleted b => exact decodeStep_canonical b hs
  | decoded b => exact decodeStep_canonical b hs
  | _ => exact hs

/-! ## The host's write of RXBUF -/

theorem hostWrites_of_idle {o v : Byte} {s : State} (h : s.block.phase = .idle) :
    hostWrites o v s =
      .next { s with block := { s.block with rxbuf := Memory.write s.block.rxbuf o.toNat v } } :=
  if_pos h

theorem hostWrites_of_busy {o v : Byte} {s : State} (h : s.block.phase ≠ .idle) :
    hostWrites o v s = .refused .rxbufInUse :=
  if_neg h

/-- A step of the host's own: its write of RXBUF (R54). -/
theorem step_of_hostWrite {s : State} {now : Tick} {o v : Byte} {rest : List Input}
    (hin : s.inputs = ⟨now, .hostWrite o v⟩ :: rest) (htick : s.env.tick.toNat ≤ now.toNat) :
    step s = hostWrites o v (present ⟨now, .hostWrite o v⟩ rest s) :=
  step_of_fetch_done (fetch_of_input hin htick)

/-! ## Why a step is refused -/

/-- The causes for which input `x` can be refused in state `s`, one for each refusal that a step answers. -/
inductive RefusalCause (s : State) (x : Input) : Refusal → Prop where
  | tickDecreases (h : x.now.toNat < s.env.tick.toNat) : RefusalCause s x .tickDecreases
  | deadlineOutOfRange (h : 2 ^ 32 ≤ x.now.toNat + s.params.byteTimeout.toNat) :
      RefusalCause s x .deadlineOutOfRange
  | rxbufInUse (o v : Byte) (what : x.what = .hostWrite o v) (busy : s.block.phase ≠ .idle) :
      RefusalCause s x .rxbufInUse
  | payloadLength (w : ReqWord) (p : List Byte) (what : x.what = .port (.request w p))
      (bad : decode (.request w p) = .bad .payloadLength) : RefusalCause s x .payloadLength
  | notAFrame (bytes : List Byte) (what : x.what = .port (.wire bytes))
      (bad : decode (.wire bytes) = .bad .notAFrame) : RefusalCause s x .notAFrame
  | notAFacadeCall (i : Instr) (what : x.what = .call i) (h : i.isApi = false ∨ i.wf = false) :
      RefusalCause s x .notAFacadeCall
  | noHandlerRunning (p : List Byte) (what : x.what = .handlerReply p)
      (none : ∀ n, s.host.calls.head? ≠ some (.rrsHandler n)) : RefusalCause s x .noHandlerRunning

/-- `r` is a next state, or a refusal of input `x` with its cause in `s`; in particular no fault. -/
def answersOrRefuses (s : State) (x : Input) (r : Result) : Prop :=
  (∃ t, r = .next t) ∨ ∃ why, r = .refused why ∧ RefusalCause s x why

/-- `r` is a next state, or the refusal of a deadline that does not fit at the tick of `s` (R163). -/
def answersOrOutOfRange (s : State) (r : Result) : Prop :=
  (∃ t, r = .next t) ∨
    (r = .refused .deadlineOutOfRange ∧ 2 ^ 32 ≤ s.env.tick.toNat + s.params.byteTimeout.toNat)

theorem startRecv_answersOrOutOfRange (m : Len) (s : State) :
    answersOrOutOfRange s (startRecv m s) := by
  rcases startRecv_cases m s with ⟨-, e⟩ | ⟨-, -, e⟩ | ⟨-, hbeyond, e⟩
  · exact .inl ⟨_, e⟩
  · exact .inl ⟨_, e⟩
  · exact .inr ⟨e, hbeyond⟩

theorem txDone_answersOrOutOfRange (s : State) : answersOrOutOfRange s (txDone s) := by
  rcases txDone_cases s with ⟨-, e⟩ | ⟨-, -, e⟩ | ⟨-, -, -, e⟩ | ⟨-, -, hbeyond, e⟩
  · exact .inl ⟨_, e⟩
  · exact .inl ⟨_, e⟩
  · exact .inl ⟨_, e⟩
  · exact .inr ⟨e, hbeyond⟩

theorem byteReceived_answersOrOutOfRange (b : Byte) (s : State) :
    answersOrOutOfRange s (byteReceived b s) := by
  rcases byteReceived_cases b s with
    ⟨-, e⟩ | ⟨-, -, -, e⟩ | ⟨-, -, hbeyond, e⟩ | ⟨-, -, e⟩ | ⟨-, -, e⟩
  · exact .inl ⟨_, e⟩
  · exact .inl ⟨_, e⟩
  · exact .inr ⟨e, hbeyond⟩
  · exact .inl ⟨_, e⟩
  · exact .inl ⟨_, e⟩

theorem thenState_answersOrOutOfRange {s : State} {r : Result} (f : State → State)
    (h : answersOrOutOfRange s r) : answersOrOutOfRange s (thenState r f) := by
  rcases h with ⟨t, ht⟩ | ⟨e, hbeyond⟩
  · exact .inl ⟨f t, thenState_next.2 ⟨t, ht, rfl⟩⟩
  · exact .inr ⟨thenState_refused.2 e, hbeyond⟩

/-- Of the operations that an input can come to, those that set a deadline may be refused, and no other
stops (R163). -/
theorem exec_answersOrOutOfRange {i : Instr} (hext : ¬ isInternal i) (s : State) :
    answersOrOutOfRange s (exec i s) := by
  cases i with
  | reqRecv m => exact startRecv_answersOrOutOfRange m s
  | apiReceiveAsync m => exact startRecv_answersOrOutOfRange m s
  | apiReceiveAndReplySync m =>
    exact thenState_answersOrOutOfRange _ (startRecv_answersOrOutOfRange m (enter .rrsPoll s))
  | evtTxc => exact txDone_answersOrOutOfRange s
  | evtRxb b => exact byteReceived_answersOrOutOfRange b s
  | fnCrc8Compute _ => exact absurd trivial hext
  | fnEncode _ => exact absurd trivial hext
  | fnDecodeStep _ => exact absurd trivial hext
  | _ => exact .inl ⟨_, rfl⟩

/-- An operation run once input `x` has been taken. -/
theorem exec_answersOrRefuses {i : Instr} {s u : State} {x : Input} (hext : ¬ isInternal i)
    (htick : u.env.tick = x.now) (hparams : u.params = s.params) :
    answersOrRefuses s x (exec i u) := by
  rcases exec_answersOrOutOfRange hext u with hnext | ⟨e, hbeyond⟩
  · exact .inl hnext
  · rw [htick, hparams] at hbeyond
    exact .inr ⟨_, e, .deadlineOutOfRange hbeyond⟩

theorem withoutPayload_bad {i : Instr} {p : List Byte} {why : DecodeError}
    (h : withoutPayload i p = .bad why) : why = .payloadLength := by
  rw [withoutPayload] at h
  split at h <;> cases h
  rfl

/-- A request is presented or not by its payload list alone (R77, R80). -/
theorem decode_request_bad {w : ReqWord} {p : List Byte} {why : DecodeError}
    (h : decode (.request w p) = .bad why) : why = .payloadLength := by
  replace h : decodeRequest w p = .bad why := h
  rw [decodeRequest] at h
  split at h
  · cases h
  · exact withoutPayload_bad h
  · exact withoutPayload_bad h
  · exact withoutPayload_bad h
  · exact withoutPayload_bad h
  · split at h <;> cases h
    rfl
  · split at h <;> cases h
    rfl

theorem decode_wire_bad {bytes : List Byte} {why : DecodeError}
    (h : decode (.wire bytes) = .bad why) : why = .notAFrame := by
  replace h : decodeFrame bytes = .bad why := h
  rw [decodeFrame.eq_def] at h
  split at h
  · split at h <;> cases h
    rfl
  · cases h; rfl

/-- No internal function can be called by name (R92, R93). -/
theorem isApi_external {i : Instr} (h : i.isApi = true) : ¬ isInternal i := by
  cases i with
  | fnCrc8Compute _ => cases h
  | fnEncode _ => cases h
  | fnDecodeStep _ => cases h
  | _ => exact id

theorem step_of_fetch_refuse {s : State} {why : Refusal} (h : fetch s = .refuse why) :
    step s = .refused why := by
  rw [step, h]

theorem fetchStimulus_of_noCall {op : Instr} {s : State} (h : op.isApi = false ∨ op.wf = false) :
    fetchStimulus (.call op) s = .refuse .notAFacadeCall := by
  rcases h with h | h <;> simp [fetchStimulus, h]

/-- Everything a handler's reply can do (R197). -/
theorem handlerReplies_cases (p : List Byte) (s : State) :
    (∃ t, handlerReplies p s = .next t) ∨
    ((∀ n, s.host.calls.head? ≠ some (.rrsHandler n)) ∧
      handlerReplies p s = .refused .noHandlerRunning) := by
  rw [handlerReplies]
  split
  · exact .inl ⟨_, rfl⟩
  · rename_i hnone
    refine .inr ⟨fun n hhead => ?_, rfl⟩
    obtain ⟨later, hcalls⟩ := List.head?_eq_some_iff.1 hhead
    exact hnone n later hcalls

/-- An input with a decreasing tick is refused whatever it is (R87, U5). -/
theorem step_of_decreasingTick {s : State} {x : Input} {rest : List Input}
    (hin : s.inputs = x :: rest) (hless : x.now.toNat < s.env.tick.toNat) :
    step s = .refused .tickDecreases := by
  have hlt : x.now < s.env.tick := BitVec.lt_def.2 hless
  refine step_of_fetch_refuse ?_
  rw [fetch, hin]
  exact if_pos hlt

/-- The delivery of the oldest event, in whatever queue: at most the deadline stops it (R219, R163). -/
theorem fetchPending_answersOrRefuses {s u : State} {x : Input} (htick : u.env.tick = x.now)
    (hparams : u.params = s.params) (hfetch : fetch s = fetchPending u) :
    answersOrRefuses s x (step s) := by
  cases hpending : u.env.pending with
  | nil =>
    rw [step_of_fetch_done (hfetch.trans (fetchPending_of_none hpending))]
    exact .inl ⟨u, rfl⟩
  | cons w later =>
    rw [step_of_fetch_run (hfetch.trans (fetchPending_of_oldest hpending))]
    exact exec_answersOrRefuses (decodeEvent_external w) htick hparams

/-- A form at its port is run, or refused because it does not decode. -/
theorem port_answersOrRefuses {s : State} {x : Input} {rest : List Input} {form : Encoded}
    (hwhat : x.what = .port form) (hfetch : fetch s = fetchPort form (present x rest s)) :
    answersOrRefuses s x (step s) := by
  cases form with
  | event w =>
    exact fetchPending_answersOrRefuses (u := taken x rest (s.env.pending ++ [w]) s) rfl rfl hfetch
  | request w p =>
    cases hdecode : decode (.request w p) with
    | instr i =>
      rw [step_of_fetch_run (hfetch.trans (fetchPort_of_decode hdecode (by simp)))]
      exact exec_answersOrRefuses (decode_external hdecode) rfl rfl
    | bad why =>
      obtain rfl := decode_request_bad hdecode
      refine .inr ⟨_, step_of_fetch_refuse (hfetch.trans ?_), .payloadLength w p hwhat hdecode⟩
      rw [fetchPort, hdecode]; rfl
  | wire bytes =>
    cases hdecode : decode (.wire bytes) with
    | instr i =>
      rw [step_of_fetch_run (hfetch.trans (fetchPort_of_decode hdecode (by simp)))]
      exact exec_answersOrRefuses (decode_external hdecode) rfl rfl
    | bad why =>
      obtain rfl := decode_wire_bad hdecode
      refine .inr ⟨_, step_of_fetch_refuse (hfetch.trans ?_), .notAFrame bytes hwhat hdecode⟩
      rw [fetchPort, hdecode]; rfl

/-- A step that takes an input answers, or refuses the input for a cause. -/
theorem step_answersOrRefuses {s : State} {x : Input} {rest : List Input}
    (hin : s.inputs = x :: rest) : answersOrRefuses s x (step s) := by
  rcases Nat.lt_or_ge x.now.toNat s.env.tick.toNat with hless | htick
  · exact .inr ⟨_, step_of_decreasingTick hin hless, .tickDecreases hless⟩
  have hfetch := fetch_of_input hin htick
  cases hwhat : x.what with
  | port form => exact port_answersOrRefuses hwhat (by rw [hfetch, hwhat]; rfl)
  | deliver =>
    exact fetchPending_answersOrRefuses (u := present x rest s) rfl rfl (by rw [hfetch, hwhat]; rfl)
  | call op =>
    by_cases hop : op.isApi = true ∧ op.wf = true
    · obtain ⟨hapi, hwf⟩ := hop
      rw [hwhat, fetchStimulus_of_call hapi hwf] at hfetch
      rw [step_of_fetch_run hfetch]
      exact exec_answersOrRefuses (isApi_external hapi) rfl rfl
    · have hno : op.isApi = false ∨ op.wf = false := by simpa [imp_iff_not_or] using hop
      rw [hwhat, fetchStimulus_of_noCall hno] at hfetch
      exact .inr ⟨_, step_of_fetch_refuse hfetch, .notAFacadeCall op hwhat hno⟩
  | resume =>
    rw [hwhat] at hfetch
    exact .inl ⟨_, step_of_fetch_done hfetch⟩
  | handlerReply p =>
    rw [hwhat] at hfetch
    rw [step_of_fetch_done hfetch]
    rcases handlerReplies_cases p (present x rest s) with hnext | ⟨hnone, e⟩
    · exact .inl hnext
    · exact .inr ⟨_, e, .noHandlerRunning p hwhat hnone⟩
  | hostWrite o v =>
    rw [hwhat] at hfetch
    rw [step_of_fetch_done hfetch]
    by_cases hidle : s.block.phase = .idle
    · exact .inl ⟨_, hostWrites_of_idle hidle⟩
    · exact .inr ⟨_, hostWrites_of_busy hidle, .rxbufInUse o v hwhat hidle⟩

/-! ## A frame on the line -/

/-- The event word of RXB is 0x0200 plus its byte (R82). -/
theorem eventWord_rxb (b : Byte) : eventWord 2 b = BitVec.ofNat 16 (0x0200 + b.toNat) := by
  have hb : b.toNat < 256 := b.isLt
  apply BitVec.eq_of_toNat_eq
  rw [toNat_eventWord, BitVec.toNat_ofNat, Nat.mod_eq_of_lt (by omega)]
  exact Nat.add_comm _ _

theorem decodeEvent_rxb (b : Byte) : decodeEvent (eventWord 2 b) = .evtRxb b := by
  have hmask : eventWord 2 b &&& 0xFF00 = 0x0200 := by
    show (0#6 ++ 2#2 ++ b : BitVec (6 + 2 + 8)) &&& (0x3F#6 ++ 3#2 ++ 0#8) = _
    rw [BitVec.and_append, BitVec.and_append, BitVec.and_zero]
    rfl
  have hkind : eventKind (eventWord 2 b) = some .rxb :=
    eventKind_of_row (r := ⟨.rxb, 0xFF00, 0x0200⟩) (by decide) hmask
  rw [decodeEvent, hkind, fieldData_eventWord]

theorem toNat_lengthByte {p : List Byte} (hshort : p.length ≤ Config.maxLen) :
    (BitVec.ofNat 8 p.length).toNat = p.length := by
  rw [BitVec.toNat_ofNat]
  exact Nat.mod_eq_of_lt (Nat.lt_succ_of_le hshort)

/-- The bytes of a frame decode to the frame (R71). -/
theorem decode_frameBytes {c : Byte} {p : List Byte} (hshort : p.length ≤ Config.maxLen) :
    decode (.wire (frameBytes c p)) = .instr (.wireFrame c p) :=
  if_pos ⟨rfl, (toNat_lengthByte hshort).symm⟩

/-! ### The decoder over a whole frame (R120) -/

theorem decodeBytes_of_cont {b : Byte} {rest : List Byte} {k k' : Block}
    (h : decodeStep b k = (.cont, k')) : decodeBytes (b :: rest) k = decodeBytes rest k' := by
  rw [decodeBytes, h]

theorem decodeBytes_of_error {b : Byte} {rest : List Byte} {k k' : Block}
    (h : decodeStep b k = (.error, k')) : decodeBytes (b :: rest) k = (.error, k', rest) := by
  rw [decodeBytes, h]

theorem decodeBytes_of_complete {b : Byte} {rest : List Byte} {k k' : Block}
    (h : decodeStep b k = (.complete, k')) : decodeBytes (b :: rest) k = (.complete, k', rest) := by
  rw [decodeBytes, h]

/-- The decoder neither reads nor writes DEADLINE (R112). -/
theorem decodeStep_deadline (b : Byte) (k : Block) (d : Tick) :
    decodeStep b { k with deadline := d } =
      ((decodeStep b k).1, { (decodeStep b k).2 with deadline := d }) := by
  simp only [decodeStep, payloadOffset]
  split_ifs <;> rfl

theorem decodeBytes_deadline (bytes : List Byte) (k : Block) (d : Tick) :
    decodeBytes bytes { k with deadline := d } =
      ((decodeBytes bytes k).1, { (decodeBytes bytes k).2.1 with deadline := d },
        (decodeBytes bytes k).2.2) := by
  induction bytes generalizing k with
  | nil => rfl
  | cons b rest ih =>
    simp only [decodeBytes, decodeStep_deadline]
    cases (decodeStep b k).1 with
    | cont => exact ih _
    | error => rfl
    | complete => rfl

/-- The block after the rest `p` of a payload, of which `RX_CNT - 3` bytes are stored (R117, R118). -/
def payloadStored (p : List Byte) (k : Block) : Block :=
  { k with
    rxCnt := BitVec.ofNat 9 (3 + k.rxLen.toNat)
    rxbuf := Memory.writeList k.rxbuf (payloadOffset k) p }

/-- The block after a whole frame with the crc byte `c` and the payload `p` (R120). -/
def frameStored (c : Byte) (p : List Byte) (k : Block) : Block :=
  { k with
    rxLen := BitVec.ofNat 8 p.length
    rxCrc := c
    rxCnt := BitVec.ofNat 9 (3 + p.length)
    rxbuf := Memory.writeList k.rxbuf 0 p }

/-- DECODE_STEP on the magic byte (R113). -/
theorem decodeStep_magic {k : Block} (hcnt : k.rxCnt = 0#9) :
    decodeStep Config.magic k = (.cont, { k with rxCnt := 1#9 }) := by
  simp [decodeStep, hcnt]

/-- DECODE_STEP on a length that RX_MAX admits (R115). -/
theorem decodeStep_length {b : Byte} {k : Block} (hcnt : k.rxCnt = 1#9)
    (hmax : b.toNat ≤ k.rxMax.toNat) :
    decodeStep b k = (.cont, { k with rxLen := b, rxCnt := 2#9 }) := by
  rcases decodeStep_cases b k with ⟨h, -, -⟩ | ⟨h, -, -⟩ | ⟨-, hbeyond, -⟩ | ⟨-, -, e⟩ | ⟨h, -⟩ |
    ⟨h, -, -⟩ | ⟨h, -, -⟩
  · simp [hcnt] at h
  · simp [hcnt] at h
  · omega
  · exact e
  · simp [hcnt] at h
  · simp [hcnt] at h
  · simp [hcnt] at h

/-- DECODE_STEP on the crc byte (R116). -/
theorem decodeStep_crc {b : Byte} {k : Block} (hcnt : k.rxCnt = 2#9) :
    decodeStep b k =
      (if k.rxLen = 0#8 then .complete else .cont, { k with rxCrc := b, rxCnt := 3#9 }) := by
  simp [decodeStep, hcnt]

/-- DECODE_STEP on a payload byte (R117, R118). -/
theorem decodeStep_payload {b : Byte} {k : Block} (hheader : 3 ≤ k.rxCnt.toNat)
    (hmissing : k.rxCnt.toNat < 3 + k.rxLen.toNat) :
    decodeStep b k =
      (if k.rxCnt.toNat + 1 = 3 + k.rxLen.toNat then .complete else .cont,
        { k with rxbuf := Memory.write k.rxbuf (payloadOffset k) b, rxCnt := k.rxCnt + 1#9 }) := by
  rcases decodeStep_cases b k with ⟨h, -, -⟩ | ⟨h, -, -⟩ | ⟨h, -, -⟩ | ⟨h, -, -⟩ | ⟨h, -⟩ |
    ⟨-, -, e⟩ | ⟨-, h, -⟩
  · simp [h] at hheader
  · simp [h] at hheader
  · simp [h] at hheader
  · simp [h] at hheader
  · simp [h] at hheader
  · exact e
  · omega

/-- The decoder takes the rest of a payload byte by byte and completes on the last one. -/
theorem decodeBytes_payload {p after : List Byte} {k : Block} (hsome : p ≠ [])
    (hheader : 3 ≤ k.rxCnt.toNat) (hcount : k.rxCnt.toNat + p.length = 3 + k.rxLen.toNat) :
    decodeBytes (p ++ after) k = (.complete, payloadStored p k, after) := by
  induction p generalizing k with
  | nil => exact absurd rfl hsome
  | cons b rest ih =>
    rw [List.length_cons] at hcount
    have hmissing : k.rxCnt.toNat < 3 + k.rxLen.toNat := by omega
    have hnext : (k.rxCnt + 1#9).toNat = k.rxCnt.toNat + 1 := rxCnt_succ hmissing
    have hstep := decodeStep_payload (b := b) hheader hmissing
    by_cases hlast : rest = []
    · subst hlast
      have hdone : k.rxCnt.toNat + 1 = 3 + k.rxLen.toNat := hcount
      rw [if_pos hdone] at hstep
      have hcnt : k.rxCnt + 1#9 = BitVec.ofNat 9 (3 + k.rxLen.toNat) := by
        rw [← hdone, ← hnext, BitVec.ofNat_toNat, BitVec.setWidth_eq]
      rw [hcnt] at hstep
      exact decodeBytes_of_complete hstep
    · have hmore : 0 < rest.length := List.length_pos_iff.2 hlast
      rw [if_neg (by omega)] at hstep
      rw [List.cons_append, decodeBytes_of_cont hstep,
        ih hlast (by simp only [hnext]; omega) (by simp only [hnext]; omega)]
      have hoffset : (k.rxCnt + 1#9).toNat - 3 = k.rxCnt.toNat - 3 + 1 := by omega
      simp only [payloadStored, payloadOffset, Config.hdrLen, hoffset, Memory.writeList]

/-- The decoder takes a whole frame whose length RX_MAX admits and completes on its last byte (R120). -/
theorem decodeBytes_frame {c : Byte} {p after : List Byte} {k : Block} (hcnt : k.rxCnt = 0#9)
    (hshort : p.length ≤ Config.maxLen) (hmax : p.length ≤ k.rxMax.toNat) :
    decodeBytes (frameBytes c p ++ after) k = (.complete, frameStored c p k, after) := by
  have hlen := toNat_lengthByte hshort
  have hmagic := decodeStep_magic hcnt
  have hlength : decodeStep (BitVec.ofNat 8 p.length) { k with rxCnt := 1#9 } =
      (.cont, { k with rxLen := BitVec.ofNat 8 p.length, rxCnt := 2#9 }) :=
    decodeStep_length rfl (hlen.trans_le hmax)
  have hcrc := decodeStep_crc (b := c)
    (k := { k with rxLen := BitVec.ofNat 8 p.length, rxCnt := 2#9 }) rfl
  simp only [frameBytes, List.cons_append, List.nil_append]
  rw [decodeBytes_of_cont hmagic, decodeBytes_of_cont hlength]
  by_cases hempty : p = []
  · subst hempty
    exact decodeBytes_of_complete hcrc
  · have hpos : 0 < p.length := List.length_pos_iff.2 hempty
    have hne : BitVec.ofNat 8 p.length ≠ 0#8 := by
      intro h
      rw [h] at hlen
      exact hpos.ne hlen
    rw [if_neg hne] at hcrc
    rw [decodeBytes_of_cont hcrc,
      decodeBytes_payload hempty (le_refl 3) (congrArg (3 + ·) hlen.symm)]
    simp only [payloadStored, hlen]
    rfl

/-! ### The delivery of the bytes -/

/-- The input that delivers the oldest event, at a tick. -/
def deliverAt (t : Tick) : Input := ⟨t, .deliver⟩

theorem byteReceived_of_receiving {b : Byte} {s : State} {answer : Answer} {k : Block}
    (hphase : s.block.phase = .receiving) (hdecode : decodeStep b s.block = (answer, k)) :
    byteReceived b s = afterDecode answer { takeReceived (quiet s) with block := k } := by
  simp [byteReceived, hphase, hdecode]

theorem afterDecode_cont_fits {s : State}
    (hfits : s.env.tick.toNat + s.params.byteTimeout.toNat < 2 ^ 32) :
    afterDecode .cont s = .next (emitRxArm { s with
      block := { s.block with deadline := s.env.tick + s.params.byteTimeout } }) := by
  rw [afterDecode, refreshDeadline_fits hfits]
  rfl

/-- In an open reception the delivery of a pending RXB gives its byte to the decoder (R136, R219). -/
theorem step_of_deliverRxb {s : State} {t : Tick} {rest : List Input} {b : Byte}
    {later : List EvtWord} {answer : Answer} {k : Block}
    (hin : s.inputs = deliverAt t :: rest) (htick : s.env.tick.toNat ≤ t.toNat)
    (hpending : s.env.pending = eventWord 2 b :: later) (hphase : s.block.phase = .receiving)
    (hdecode : decodeStep b s.block = (answer, k)) :
    step s = afterDecode answer
      { takeReceived (quiet (taken (deliverAt t) rest later s)) with block := k } := by
  have hstep := (eventsAreDeliveredOldestFirst s t rest _ 0 later htick).1 hin hpending
  rw [decodeEvent_rxb] at hstep
  exact hstep.trans (byteReceived_of_receiving hphase hdecode)

/-- Bytes that DECODE takes as one whole frame, delivered at a tick from which a deadline fits, complete
the reception (R136, R137); every byte but the last sets the deadline. -/
theorem run_deliverFrame {bytes : List Byte} {s : State} {t : Tick} {rest : List Input} {k : Block}
    (hphase : s.block.phase = .receiving) (hpending : s.env.pending = bytes.map (eventWord 2))
    (htick : s.env.tick.toNat ≤ t.toNat) (hfits : t.toNat + s.params.byteTimeout.toNat < 2 ^ 32)
    (hin : s.inputs = List.replicate bytes.length (deliverAt t) ++ rest)
    (hdecode : decodeBytes bytes s.block = (.complete, k, [])) :
    ∃ u d, Host.Core.run Sys2Proof.core bytes.length s = .next u ∧ u.params = s.params ∧
      u.block = { k with phase := .receivedAwaitingCrc, deadline := d } ∧
      u.env.tick.toNat ≤ t.toNat ∧ u.inputs = rest := by
  induction bytes generalizing s k with
  | nil => cases hdecode
  | cons b bytes ih =>
    rw [List.length_cons, List.replicate_succ, List.cons_append] at hin
    rcases hfirst : decodeStep b s.block with ⟨answer, k₁⟩
    have hstep := step_of_deliverRxb hin htick hpending hphase hfirst
    cases answer with
    | cont =>
      rw [afterDecode_cont_fits hfits] at hstep
      rw [decodeBytes_of_cont hfirst] at hdecode
      have hopen : k₁.phase = .receiving := by
        rw [← hphase, ← decodeStep_phase b s.block, hfirst]
      have hlater : decodeBytes bytes { k₁ with deadline := t + s.params.byteTimeout } =
          (.complete, { k with deadline := t + s.params.byteTimeout }, []) := by
        rw [decodeBytes_deadline, hdecode]
      obtain ⟨u, d, hrun, hu⟩ := ih (s := emitRxArm
        { takeReceived (quiet (taken (deliverAt t) _ (bytes.map (eventWord 2)) s)) with
          block := { k₁ with deadline := t + s.params.byteTimeout } })
        hopen rfl (le_refl _) hfits rfl hlater
      exact ⟨u, d, (run_step hstep).trans hrun, hu⟩
    | error =>
      rw [decodeBytes_of_error hfirst] at hdecode
      cases hdecode
    | complete =>
      rw [decodeBytes_of_complete hfirst] at hdecode
      cases hdecode
      exact ⟨_, _, run_step hstep, rfl, rfl, le_refl _, rfl⟩

/-! ### The arrival and the POLL -/

/-- A frame arrives: its bytes wait behind the events already there (log 12). -/
theorem step_of_frame {s : State} {t : Tick} {rest : List Input} {c : Byte} {p : List Byte}
    (hin : s.inputs = ⟨t, .port (.wire (frameBytes c p))⟩ :: rest) (htick : s.env.tick.toNat ≤ t.toNat)
    (hshort : p.length ≤ Config.maxLen) :
    step s = .next (taken ⟨t, .port (.wire (frameBytes c p))⟩ rest
      (s.env.pending ++ (frameBytes c p).map (eventWord 2)) s) :=
  stepRunsTheDecodedOperation s t _ rest _ hin htick
    (.inr (.inl ⟨_, rfl, decode_frameBytes hshort⟩))

/-- POLL of a complete reception: the crc byte decides STATUS (R170). -/
theorem step_of_pollComplete {s : State} {t : Tick} {rest : List Input}
    (hin : s.inputs = pollAt t :: rest) (htick : s.env.tick.toNat ≤ t.toNat)
    (hphase : s.block.phase = .receivedAwaitingCrc) :
    ∃ u, step s = .next u ∧ u.inputs = rest ∧ u.block = { s.block with
      status := if s.block.rxCrc = crc8 s.params.crcTable (receivedPayload s.block) then .ok
        else .crcError
      phase := .idle } := by
  have hstep : step s = .next (poll (present (pollAt t) rest s)) :=
    stepRunsTheDecodedOperation s t _ rest .reqPoll hin htick (.inl ⟨_, _, rfl, rfl⟩)
  have hpoll : pollBlock (quiet (present (pollAt t) rest s)) =
      crcCheck (quiet (present (pollAt t) rest s)) := by
    simp [pollBlock, hphase]
  rw [poll, hpoll] at hstep
  refine ⟨_, hstep, ?_⟩
  rcases crcCheck_cases (quiet (present (pollAt t) rest s)) with ⟨heq, e⟩ | ⟨hne, e⟩
  · have hcrc : s.block.rxCrc = crc8 s.params.crcTable (receivedPayload s.block) := heq.symm
    rw [e, if_pos hcrc]
    exact ⟨rfl, rfl⟩
  · have hcrc : s.block.rxCrc ≠ crc8 s.params.crcTable (receivedPayload s.block) := Ne.symm hne
    rw [e, if_neg hcrc]
    exact ⟨rfl, rfl⟩

section FrameStored

variable (c : Byte) {p : List Byte} {k : Block}

theorem receivedPayload_frameStored (hwf : Memory.wf k.rxbuf = true)
    (hshort : p.length ≤ Config.maxLen) : receivedPayload (frameStored c p k) = p := by
  simp only [receivedPayload, frameStored, toNat_lengthByte hshort]
  exact Memory.slice_writeList hwf (hshort.trans (by decide))

/-- RXBUF is kept at and beyond the length of the payload (R119). -/
theorem read_frameStored (hwf : Memory.wf k.rxbuf = true) (hshort : p.length ≤ Config.maxLen)
    {a : Nat} (ha : p.length ≤ a) :
    Memory.read (frameStored c p k).rxbuf a = Memory.read k.rxbuf a := by
  rw [frameStored, Memory.read_writeList hwf (payload_fits_space hshort), if_neg (by omega)]

end FrameStored

/-! ## The statements -/

/-- Settles O58: the write in `Idle` is one `Memory.write`. -/
theorem hostWritesRxbufOnlyInIdle : Obligations.HostWritesRxbufOnlyInIdle := by
  intro s now o v rest hin htick hwf
  have hstep := step_of_hostWrite hin htick
  refine ⟨fun hidle => ⟨_, hstep.trans (hostWrites_of_idle hidle), rfl, fun a => ?_⟩,
    fun hbusy => hstep.trans (hostWrites_of_busy hbusy)⟩
  exact (Memory.read_write hwf).trans (if_congr eq_comm rfl rfl)

/-- Settles O56: what an operation does to the block it does by its `Effect`. -/
theorem memoriesStayCanonical : Obligations.MemoriesStayCanonical := by
  intro i s t h htxpay hrxbuf
  obtain ⟨u, heffect, ht⟩ := exec_effect h
  have hu : memoriesCanonical u.block := effect_canonical heffect ⟨htxpay, hrxbuf⟩
  rw [ht]
  exact hu

/-- Settles O12: `step_answersOrRefuses` where there is an input; without one the step answers. -/
theorem stepStopsOnlyForANamedCause : Obligations.StepStopsOnlyForANamedCause := by
  intro s
  cases hin : s.inputs with
  | nil =>
    rw [withoutInputNothingHappens s hin]
    exact ⟨fun _ => nofun, fun _ => nofun⟩
  | cons x rest =>
    rcases step_answersOrRefuses hin with ⟨t, e⟩ | ⟨why, e, hcause⟩ <;> rw [e]
    · exact ⟨fun _ => nofun, fun _ => nofun⟩
    · refine ⟨fun _ => nofun, fun r hr => ⟨x, rest, rfl, ?_⟩⟩
      cases hr
      cases hcause with
      | tickDecreases h => exact h
      | deadlineOutOfRange h => exact h
      | rxbufInUse o v what busy => exact ⟨busy, o, v, what⟩
      | payloadLength w p what bad => exact ⟨w, p, what, bad⟩
      | notAFrame bytes what bad => exact ⟨bytes, what, bad⟩
      | notAFacadeCall i what h => exact ⟨i, what, h⟩
      | noHandlerRunning p what none => exact ⟨⟨p, what⟩, none⟩

/-- Settles O43: the words of `execWireFrame` are the event words of RXB. -/
theorem frameBytesArriveInWireOrder : Obligations.FrameBytesArriveInWireOrder := by
  intro c p s
  have hword : eventWord 2 = fun b => BitVec.ofNat 16 (0x0200 + b.toNat) := funext eventWord_rxb
  rw [← hword]
  rfl

/-- Settles O44: the frame arrives, its bytes are delivered, and POLL checks it. -/
theorem frameOnTheLineIsCheckedAtThePoll : Obligations.FrameOnTheLineIsCheckedAtThePoll := by
  intro s t c p rest hwf hphase hcnt hnone hshort hmax htick hfits hin
  have hin' : s.inputs = ⟨t, .port (.wire (frameBytes c p))⟩ ::
      (List.replicate (frameBytes c p).length (deliverAt t) ++ (pollAt t :: rest)) := by
    rw [hin]
    simp [frameThenPoll, frameBytes, deliverAt, Config.magic]
  have harrive := step_of_frame hin' htick hshort
  rw [hnone, List.nil_append] at harrive
  have hdecode : decodeBytes (frameBytes c p) s.block = (.complete, frameStored c p s.block, []) := by
    simpa using decodeBytes_frame (after := []) hcnt hshort hmax
  obtain ⟨v, d, hdeliver, hparams, hblock, hvtick, hvin⟩ :=
    run_deliverFrame (s := taken ⟨t, .port (.wire (frameBytes c p))⟩ _ _ s) (t := t)
      (rest := pollAt t :: rest) hphase rfl (le_refl _) hfits rfl hdecode
  obtain ⟨u, hpoll, huin, hublock⟩ := step_of_pollComplete hvin hvtick (by rw [hblock])
  have hrun : Host.Core.run Sys2Proof.core (p.length + 5) s = .next u := calc
    _ = Host.Core.run Sys2Proof.core ((frameBytes c p).length + 1) _ := run_step harrive
    _ = Host.Core.run Sys2Proof.core 1 v := run_append hdeliver
    _ = .next u := run_step hpoll
  have hpayload : receivedPayload v.block = p := by
    rw [hblock]
    exact receivedPayload_frameStored c hwf hshort
  rw [hpayload, hparams, hblock] at hublock
  have hfinal : u.block = { frameStored c p s.block with
      status := if c = crc8 s.params.crcTable p then .ok else .crcError
      phase := .idle, deadline := d } := hublock
  refine ⟨u, hrun, ?_⟩
  rw [hfinal]
  exact ⟨rfl, rfl, toNat_lengthByte hshort, receivedPayload_frameStored c hwf hshort,
    fun _ => read_frameStored c hwf hshort, rfl, rfl, rfl, huin⟩

end Sys2Proof.Proofs
end

section
/-! The statements of 30_encoding.md: the request, event and frame encodings in both directions, what a
rejection changes, the tick of a step, and the facade calls as the requests they stand for. -/

namespace Sys2Proof.Proofs

open Sys2Proof.Machine Sys2Proof.Safety

/-! ## The rows of R78 and R82 by their kind -/

/-- The row of R78 of a request. -/
def requestRowOf : RequestKind → RequestRow
  | .getStatus => ⟨.getStatus, 0xFFFFFFFFFFFFFFFF, 0x0000000000000000⟩
  | .send => ⟨.send, 0xFFFF0000000000EF, 0x0000000000000001⟩
  | .recv => ⟨.recv, 0xFFFF0000FFFFFFFF, 0x0000000000000002⟩
  | .poll => ⟨.poll, 0xFFFFFFFFFFFFFFFF, 0x0000000000000003⟩
  | .getRxlen => ⟨.getRxlen, 0xFFFFFFFFFFFFFFFF, 0x0000000000000004⟩
  | .crc8 => ⟨.crc8, 0xFFFFFFFF0000FFFF, 0x0000000000000005⟩

theorem requestRowOf_kind (kind : RequestKind) : (requestRowOf kind).kind = kind := by
  cases kind <;> rfl

theorem requestRowOf_mem (kind : RequestKind) : requestRowOf kind ∈ requestRows := by
  cases kind <;> decide

/-- Each request has one row. -/
theorem eq_requestRowOf {r : RequestRow} (hr : r ∈ requestRows) : r = requestRowOf r.kind := by
  have hall : ∀ a ∈ requestRows, a = requestRowOf a.kind := by decide
  exact hall r hr

/-- A word is a request exactly when it matches that request's row (R78). -/
theorem requestKind_eq_some {w : ReqWord} {kind : RequestKind} :
    requestKind w = some kind ↔ w &&& (requestRowOf kind).mask = (requestRowOf kind).value := by
  refine ⟨fun h => ?_, fun h => ?_⟩
  · obtain ⟨r, hr, rfl, hmatch⟩ := requestKind_some h
    rwa [← eq_requestRowOf hr]
  · rw [requestKind_of_row (requestRowOf_mem kind) h, requestRowOf_kind]

/-- The row of R82 of an event. -/
def eventRowOf : EventKind → EventRow
  | .txc => ⟨.txc, 0xFFFF, 0x0100⟩
  | .rxb => ⟨.rxb, 0xFF00, 0x0200⟩
  | .lerr => ⟨.lerr, 0xFFFF, 0x0300⟩

theorem eventRowOf_kind (kind : EventKind) : (eventRowOf kind).kind = kind := by
  cases kind <;> rfl

theorem eventRowOf_mem (kind : EventKind) : eventRowOf kind ∈ eventRows := by
  cases kind <;> decide

/-- Each event has one row. -/
theorem eq_eventRowOf {r : EventRow} (hr : r ∈ eventRows) : r = eventRowOf r.kind := by
  have hall : ∀ a ∈ eventRows, a = eventRowOf a.kind := by decide
  exact hall r hr

/-- A word is an event exactly when it matches that event's row (R82). -/
theorem eventKind_eq_some {w : EvtWord} {kind : EventKind} :
    eventKind w = some kind ↔ w &&& (eventRowOf kind).mask = (eventRowOf kind).value := by
  refine ⟨fun h => ?_, fun h => ?_⟩
  · obtain ⟨r, hr, rfl, hmatch⟩ := eventKind_some h
    rwa [← eq_eventRowOf hr]
  · rw [eventKind_of_row (eventRowOf_mem kind) h, eventRowOf_kind]

/-- A row whose mask is full is matched by one word only. -/
theorem and_fullRequest (w : ReqWord) : w &&& 0xFFFFFFFFFFFFFFFF = w := BitVec.and_allOnes

theorem and_fullEvent (w : EvtWord) : w &&& 0xFFFF = w := BitVec.and_allOnes

/-! ## Decoding by the kind of a word -/

/-- The request that a word of this kind is, with the list `p` presented beside it (R76, R77). -/
def requestOf (w : ReqWord) (p : List Byte) : RequestKind → Instr
  | .getStatus => .reqGetStatus
  | .send => .reqSend (fieldExpect w) (fieldRetry w) (fieldRxmax w) p
  | .recv => .reqRecv (fieldRxmax w)
  | .poll => .reqPoll
  | .getRxlen => .reqGetRxlen
  | .crc8 => .reqCrc8 p

/-- The length of the payload list that a word of this kind is presented with (R77). -/
def requestLength (w : ReqWord) : RequestKind → Nat
  | .send => (fieldLen w).toNat
  | .crc8 => (fieldLen w).toNat
  | .getStatus => 0
  | .recv => 0
  | .poll => 0
  | .getRxlen => 0

theorem withoutPayload_eq (i : Instr) (p : List Byte) :
    withoutPayload i p = if p.length = 0 then .instr i else .bad .payloadLength := by
  rw [withoutPayload]
  exact if_congr List.length_eq_zero_iff.symm rfl rfl

/-- Everything the decoder does with a word that is a request (R77, R78). -/
theorem decode_of_kind {w : ReqWord} {kind : RequestKind} (h : requestKind w = some kind)
    (p : List Byte) : decode (.request w p) =
      if p.length = requestLength w kind then .instr (requestOf w p kind)
      else .bad .payloadLength := by
  show decodeRequest w p = _
  cases kind with
  | send => rw [decodeRequest, h]; rfl
  | crc8 => rw [decodeRequest, h]; rfl
  | getStatus => rw [decodeRequest, h]; exact withoutPayload_eq _ p
  | recv => rw [decodeRequest, h]; exact withoutPayload_eq _ p
  | poll => rw [decodeRequest, h]; exact withoutPayload_eq _ p
  | getRxlen => rw [decodeRequest, h]; exact withoutPayload_eq _ p

theorem decode_of_kind_length {w : ReqWord} {kind : RequestKind} {p : List Byte}
    (h : requestKind w = some kind) (hlen : p.length = requestLength w kind) :
    decode (.request w p) = .instr (requestOf w p kind) := by
  rw [decode_of_kind h, if_pos hlen]

/-- A word that is no request decodes to the reserved one, whatever its list (R80, log 16). -/
theorem decode_of_noKind {w : ReqWord} (h : requestKind w = none) (p : List Byte) :
    decode (.request w p) = .instr (.reqReserved w) := by
  show decodeRequest w p = _
  rw [decodeRequest, h]

/-- The event that a word of this kind is (R82). -/
def eventOf (w : EvtWord) : EventKind → Instr
  | .txc => .evtTxc
  | .rxb => .evtRxb (fieldData w)
  | .lerr => .evtLerr

theorem decodeEvent_of_kind {w : EvtWord} {kind : EventKind} (h : eventKind w = some kind) :
    decodeEvent w = eventOf w kind := by
  rw [decodeEvent, h]
  cases kind <;> rfl

theorem decodeEvent_of_noKind {w : EvtWord} (h : eventKind w = none) :
    decodeEvent w = .evtReserved w := by
  rw [decodeEvent, h]

/-- Everything that can decode as a frame (R71, R72). -/
theorem decode_wire_instr {bytes : List Byte} {i : Instr} (h : decode (.wire bytes) = .instr i) :
    ∃ c p, i = .wireFrame c p ∧ p.length ≤ Config.maxLen ∧ bytes = frameBytes c p := by
  replace h : decodeFrame bytes = .instr i := h
  rw [decodeFrame.eq_def] at h
  split at h
  · rename_i m len c p
    split at h <;> cases h
    rename_i hframe
    obtain ⟨rfl, hlen⟩ := hframe
    refine ⟨c, p, rfl, ?_, ?_⟩
    · rw [hlen]
      exact Nat.le_of_lt_succ len.isLt
    · rw [frameBytes, hlen, BitVec.ofNat_toNat, BitVec.setWidth_eq]
      rfl
  · cases h

/-! ## The fields of a word that has a kind -/

@[simp] theorem fieldOp_requestWord (op : BitVec 4) (e : Bool) (r : Byte) (l m : Len) :
    fieldOp (requestWord op e r l m) = op := by
  apply BitVec.eq_of_toNat_eq
  rw [fieldOp_toNat, toNat_requestWord]
  have hop : op.toNat < 16 := op.isLt
  omega

theorem requestWord_inj {op op' : BitVec 4} {e e' : Bool} {r r' : Byte} {l l' m m' : Len}
    (h : requestWord op e r l m = requestWord op' e' r' l' m') :
    op = op' ∧ e = e' ∧ r = r' ∧ l = l' ∧ m = m' :=
  ⟨by simpa using congrArg fieldOp h, by simpa using congrArg fieldExpect h,
    by simpa using congrArg fieldRetry h, by simpa using congrArg fieldLen h,
    by simpa using congrArg fieldRxmax h⟩

theorem fieldRetry_eq (w : ReqWord) : fieldRetry w = BitVec.ofNat 8 (w.toNat / 2 ^ 8) := by
  apply BitVec.eq_of_toNat_eq
  rw [fieldRetry_toNat, BitVec.toNat_ofNat]

theorem fieldRxmax_eq (w : ReqWord) : fieldRxmax w = BitVec.ofNat 16 (w.toNat / 2 ^ 32) := by
  apply BitVec.eq_of_toNat_eq
  rw [fieldRxmax_toNat, BitVec.toNat_ofNat]

theorem fieldData_eq (w : EvtWord) : fieldData w = BitVec.ofNat 8 w.toNat := by
  apply BitVec.eq_of_toNat_eq
  rw [fieldData_toNat, BitVec.toNat_ofNat]

theorem fieldOp_of_kind {w : ReqWord} {kind : RequestKind} (h : requestKind w = some kind) :
    fieldOp w = fieldOp (requestRowOf kind).value :=
  fieldOp_of_row (requestRowOf_mem kind) (requestKind_eq_some.1 h)

/-- ZERO_A and ZERO_B are zero in every word that is a request (R76, R78), so it is the word of its
fields. -/
theorem requestWord_of_kind {w : ReqWord} {kind : RequestKind} (h : requestKind w = some kind) :
    requestWord (fieldOp w) (fieldExpect w) (fieldRetry w) (fieldLen w) (fieldRxmax w) = w := by
  have hmatch := requestKind_eq_some.1 h
  have hA : w.extractLsb' 5 3 = 0#3 := by
    rw [field_of_match 5 3 hmatch (by cases kind <;> rfl)]
    cases kind <;> rfl
  have hB : w.extractLsb' 48 16 = 0#16 := by
    rw [field_of_match 48 16 hmatch (by cases kind <;> rfl)]
    cases kind <;> rfl
  replace hA := congrArg BitVec.toNat hA
  replace hB := congrArg BitVec.toNat hB
  rw [BitVec.extractLsb'_toNat, Nat.shiftRight_eq_div_pow, BitVec.toNat_zero] at hA hB
  have hw := w.isLt
  exact requestWord_fields hA (by omega)

/-- A request word is what `encode` writes for the request it is (R76 to R78). -/
theorem encode_requestOf {w : ReqWord} {kind : RequestKind} {p : List Byte}
    (h : requestKind w = some kind) (hlen : p.length = requestLength w kind) :
    encode (requestOf w p kind) = some (.request w p) := by
  have hmatch := requestKind_eq_some.1 h
  have hword := requestWord_of_kind h
  have hempty : requestLength w kind = 0 → p = [] := fun h0 =>
    List.length_eq_zero_iff.1 (hlen.trans h0)
  have hfield : p.length = (fieldLen w).toNat → lenOf p = fieldLen w := fun hl => by
    rw [lenOf, hl, BitVec.ofNat_toNat, BitVec.setWidth_eq]
  cases kind with
  | getStatus =>
    obtain rfl : w = 0 := (and_fullRequest w).symm.trans hmatch
    obtain rfl := hempty rfl
    rfl
  | poll =>
    obtain rfl : w = 3 := (and_fullRequest w).symm.trans hmatch
    obtain rfl := hempty rfl
    rfl
  | getRxlen =>
    obtain rfl : w = 4 := (and_fullRequest w).symm.trans hmatch
    obtain rfl := hempty rfl
    rfl
  | send =>
    have hfixed : requestWord (fieldOp w) false 0 0 0 = requestWord 1 false 0 0 0 := by
      rw [← requestWord_and_send, hword]
      exact hmatch
    obtain ⟨hop, -⟩ := requestWord_inj hfixed
    rw [hop, ← hfield hlen] at hword
    exact congrArg (fun v => some (Encoded.request v p)) hword
  | recv =>
    obtain rfl := hempty rfl
    have hfixed : requestWord (fieldOp w) (fieldExpect w) (fieldRetry w) (fieldLen w) 0 =
        requestWord 2 false 0 0 0 := by
      rw [← requestWord_and_recv, hword]
      exact hmatch
    obtain ⟨hop, hexpect, hretry, hlenField, -⟩ := requestWord_inj hfixed
    rw [hop, hexpect, hretry, hlenField] at hword
    exact congrArg (fun v => some (Encoded.request v [])) hword
  | crc8 =>
    have hfixed : requestWord (fieldOp w) (fieldExpect w) (fieldRetry w) 0 (fieldRxmax w) =
        requestWord 5 false 0 0 0 := by
      rw [← requestWord_and_crc8, hword]
      exact hmatch
    obtain ⟨hop, hexpect, hretry, -, hrxmax⟩ := requestWord_inj hfixed
    rw [hop, hexpect, hretry, hrxmax, ← hfield hlen] at hword
    exact congrArg (fun v => some (Encoded.request v p)) hword

theorem payloadFits_of_length {p : List Byte} {n : Len} (h : p.length = n.toNat) :
    payloadFits p = true := by
  rw [payloadFits, h]
  exact decide_eq_true n.isLt

theorem requestOf_wf {w : ReqWord} {kind : RequestKind} {p : List Byte}
    (hlen : p.length = requestLength w kind) : (requestOf w p kind).wf = true := by
  cases kind with
  | send => exact payloadFits_of_length hlen
  | crc8 => exact payloadFits_of_length hlen
  | _ => rfl

theorem requestOf_isApi (w : ReqWord) (p : List Byte) (kind : RequestKind) :
    (requestOf w p kind).isApi = false := by
  cases kind <;> rfl

/-- A word whose OP no row has is no request (R80). -/
theorem requestKind_of_op {w : ReqWord} (h : 6 ≤ w.toNat % 16) : requestKind w = none := by
  cases hkind : requestKind w with
  | none => rfl
  | some kind =>
    have hop := congrArg BitVec.toNat (fieldOp_of_kind hkind)
    have hrow : (fieldOp (requestRowOf kind).value).toNat ≤ 5 := by cases kind <;> decide
    rw [fieldOp_toNat] at hop
    omega

/-- A word with the OP of CRC8 is CRC8 or reserved (R78, R80). -/
theorem requestKind_of_op_crc8 {w : ReqWord} (h : w.toNat % 16 = 5) :
    requestKind w = some .crc8 ∨ requestKind w = none := by
  cases hkind : requestKind w with
  | none => exact .inr rfl
  | some kind =>
    have hop := congrArg BitVec.toNat (fieldOp_of_kind hkind)
    have hrow : (fieldOp (requestRowOf kind).value).toNat = 5 → kind = .crc8 := by
      cases kind <;> decide
    rw [fieldOp_toNat, h] at hop
    exact .inl (congrArg some (hrow hop.symm))

/-- Bits 15:8 of an event word are its row's (R82). -/
theorem eventWord_high_of_kind {w : EvtWord} {kind : EventKind} (h : eventKind w = some kind) :
    w.toNat / 2 ^ 8 = (eventRowOf kind).value.toNat / 2 ^ 8 := by
  have hhigh := congrArg BitVec.toNat
    (field_of_match 8 8 (eventKind_eq_some.1 h) (by cases kind <;> rfl))
  simp only [BitVec.extractLsb'_toNat, Nat.shiftRight_eq_div_pow] at hhigh
  have hw := w.isLt
  have hv := (eventRowOf kind).value.isLt
  omega

/-- A word with KIND 0 or a bit of ZERO_E is no event (R83). -/
theorem eventKind_of_high {w : EvtWord}
    (h : w.toNat / 2 ^ 8 % 2 ^ 2 = 0 ∨ w.toNat / 2 ^ 10 ≠ 0) : eventKind w = none := by
  cases hkind : eventKind w with
  | none => rfl
  | some kind =>
    have hhigh := eventWord_high_of_kind hkind
    have hrow : 1 ≤ (eventRowOf kind).value.toNat / 2 ^ 8 ∧
        (eventRowOf kind).value.toNat / 2 ^ 8 ≤ 3 := by
      cases kind <;> decide
    omega

/-- An event word is what `encode` writes for the event it is (R82). -/
theorem encode_eventOf {w : EvtWord} {kind : EventKind} (h : eventKind w = some kind) :
    encode (eventOf w kind) = some (.event w) := by
  have hmatch := eventKind_eq_some.1 h
  cases kind with
  | txc =>
    obtain rfl : w = 0x0100 := (and_fullEvent w).symm.trans hmatch
    rfl
  | lerr =>
    obtain rfl : w = 0x0300 := (and_fullEvent w).symm.trans hmatch
    rfl
  | rxb =>
    have hhigh : w.toNat / 2 ^ 8 = 2 := eventWord_high_of_kind h
    have hword : eventWord 2 (fieldData w) = w := by
      apply BitVec.eq_of_toNat_eq
      rw [toNat_eventWord, fieldData_toNat]
      show w.toNat % 2 ^ 8 + 2 ^ 8 * 2 = w.toNat
      omega
    exact congrArg (fun v => some (Encoded.event v)) hword

theorem eventOf_wf (w : EvtWord) (kind : EventKind) : (eventOf w kind).wf = true := by
  cases kind <;> rfl

theorem eventOf_isApi (w : EvtWord) (kind : EventKind) : (eventOf w kind).isApi = false := by
  cases kind <;> rfl

/-! ## The words that `encode` writes for a request with operands -/

theorem decode_sendWord (e : Bool) (r : Byte) (m : Len) {p : List Byte} (hp : payloadFits p = true) :
    decode (.request (requestWord 0x1 e r (lenOf p) m) p) = .instr (.reqSend e r m p) := by
  have hkind : requestKind (requestWord 0x1 e r (lenOf p) m) = some .send :=
    requestKind_eq_some.2 (requestWord_and_send 0x1 e r (lenOf p) m)
  rw [decode_of_kind_length hkind]
  · simp [requestOf]
  · rw [requestLength, fieldLen_requestWord, toNat_lenOf (of_decide_eq_true hp)]

theorem decode_recvWord (m : Len) :
    decode (.request (requestWord 0x2 false 0 0 m) []) = .instr (.reqRecv m) := by
  have hkind : requestKind (requestWord 0x2 false 0 0 m) = some .recv :=
    requestKind_eq_some.2 (requestWord_and_recv 0x2 false 0 0 m)
  rw [decode_of_kind_length hkind rfl, requestOf, fieldRxmax_requestWord]

theorem decode_crc8Word {p : List Byte} (hp : payloadFits p = true) :
    decode (.request (requestWord 0x5 false 0 (lenOf p) 0) p) = .instr (.reqCrc8 p) := by
  have hkind : requestKind (requestWord 0x5 false 0 (lenOf p) 0) = some .crc8 :=
    requestKind_eq_some.2 (requestWord_and_crc8 0x5 false 0 (lenOf p) 0)
  refine decode_of_kind_length hkind ?_
  rw [requestLength, fieldLen_requestWord, toNat_lenOf (of_decide_eq_true hp)]

/-! ## What an operation does to the clock and the inputs, and what a rejection is -/

/-- No operation moves the clock or takes an input. -/
theorem effect_tick {i : Instr} {s t : State} (h : Effect i s t) :
    t.env.tick = s.env.tick ∧ t.inputs = s.inputs := by
  cases h <;> exact ⟨rfl, rfl⟩

theorem exec_tick {i : Instr} {s t : State} (h : exec i s = .next t) :
    t.env.tick = s.env.tick ∧ t.inputs = s.inputs := by
  obtain ⟨u, heffect, ht⟩ := exec_effect h
  have hu := effect_tick heffect
  rw [ht]
  exact hu

/-- The cause of each rejection word (R80, R212, D26). -/
def rejectionCause (i : Instr) (w : RespWord) : Prop :=
  (w = 0x0009#16 ∧ (isSend i ∨ isRecv i)) ∨ (w = 0x000D#16 ∧ isSend i) ∨
    (w = 0x000E#16 ∧ (isSend i ∨ ∃ p, i = .reqCrc8 p ∧ Config.maxLen < p.length)) ∨
    (w = 0x000F#16 ∧ ∃ v, i = .reqReserved v)

/-- A response word of `respond` is no rejection. -/
theorem not_rejected {c : Code} {v : Byte} {w : RespWord}
    (hresp : some (responseWord false c v) = some w) : respRej w ≠ true := by
  cases hresp
  simp

/-- An operation that answers a rejection writes its output only. -/
theorem effect_rejected {i : Instr} {s t : State} {w : RespWord} (h : Effect i s t)
    (hresp : t.out.resp = some w) (hrej : respRej w = true) :
    ∃ o, t = { s with out := o } ∧ o.actions = [] ∧ rejectionCause i w := by
  cases h with
  | answered o hnone hcause => exact ⟨o, rfl, hnone, hcause w hresp hrej⟩
  | freeLength => exact absurd hrej (not_rejected hresp)
  | sent => exact absurd hrej (not_rejected hresp)
  | opened => exact absurd hrej (not_rejected hresp)
  | retransmitted => exact absurd hrej (not_rejected hresp)
  | timedOut => exact absurd hrej (not_rejected hresp)
  | checked => exact absurd hrej (not_rejected hresp)
  | encoded _ _ _ _ _ hnone => exact absurd (hnone.symm.trans hresp) nofun
  | decoded _ _ _ _ hnone => exact absurd (hnone.symm.trans hresp) nofun
  | _ => cases hresp

/-! ## The starting requests of the facade calls -/

section Starting

variable {e : Bool} {r : Byte} {p : List Byte} (m : Len) {s : State}

theorem startSend_of_reason {c : Code} (h : sendReason e r p s.block = some c) :
    startSend e r m p s = reject c s := by
  rw [startSend, h]

/-- SEND where its three checks pass (R182, R183). -/
theorem startSend_accepted (hidle : s.block.phase = .idle) (hlegal : e = true ∨ r = 0#8)
    (hshort : p.length ≤ Config.maxLen) :
    startSend e r m p s = respond .ok 0#8 (sendEffects e r m p (quiet s)) := by
  have hnone : sendReason e r p s.block = none := by
    rw [sendReason, if_neg (not_not_intro hidle), if_neg (by rcases hlegal with h | h <;> simp [h]),
      if_neg (Nat.not_lt.2 hshort)]
  rw [startSend, hnone]

theorem sendReason_busy (hbusy : s.block.phase ≠ .idle) :
    sendReason e r p s.block = some .busy := if_pos hbusy

theorem sendReason_invalidArgument (hidle : s.block.phase = .idle) (hnoReply : e = false)
    (hretry : r ≠ 0#8) : sendReason e r p s.block = some .invalidArgument := by
  rw [sendReason, if_neg (not_not_intro hidle), if_pos ⟨hnoReply, hretry⟩]

theorem sendReason_lengthError (hidle : s.block.phase = .idle) (hlegal : e = true ∨ r = 0#8)
    (hlong : Config.maxLen < p.length) : sendReason e r p s.block = some .lengthError := by
  rw [sendReason, if_neg (not_not_intro hidle), if_neg (by rcases hlegal with h | h <;> simp [h]),
    if_pos hlong]

/-- RECV in `Idle` where its deadline fits (R185, R163). -/
theorem startRecv_accepted (hidle : s.block.phase = .idle)
    (hfits : s.env.tick.toNat + s.params.byteTimeout.toNat < 2 ^ 32) :
    startRecv m s = .next (respond .ok 0#8 (emitRxArm { quiet s with
      block := { s.block with
        rxv := true, rxMax := m, retry := 0#8, phase := .receiving, rxCnt := 0#9,
        deadline := s.env.tick + s.params.byteTimeout } })) := by
  rcases startRecv_cases m s with ⟨hbusy, -⟩ | ⟨-, -, e⟩ | ⟨-, hbeyond, -⟩
  · exact absurd hidle hbusy
  · exact e
  · omega

theorem startRecv_busy (hbusy : s.block.phase ≠ .idle) : startRecv m s = .next (reject .busy s) :=
  if_pos hbusy

end Starting

/-- A routine whose starting request is rejected returns failure with the code (R196, R197). -/
theorem afterStart_rejected (line : Routine) (c : Code) (s : State) :
    afterStart line (reject c (enter line s)) = { s with
      host := ⟨s.host.calls, some (.failure c.bits)⟩
      out := ⟨some (responseWord true c 0#8), [], none⟩ } := by
  have hanswer : answered (reject c (enter line s)) = responseWord true c 0#8 := rfl
  rw [afterStart, hanswer, respRej_responseWord, if_pos rfl, respCode_responseWord]
  rfl

/-- A routine whose starting request is accepted goes on at its next line (R196, R197). -/
theorem afterStart_accepted (line : Routine) (c : Code) (v : Byte) (s : State) :
    afterStart line (respond c v s) = respond c v (atLine line s) := by
  have hanswer : answered (respond c v s) = responseWord false c v := rfl
  rw [afterStart, hanswer, respRej_responseWord]
  rfl

/-! ## The statements -/

/-- Settles O1: each operation with an encoding, by the form that `encode` writes for it. -/
theorem decodeOfEncodeIsTheOperation : Obligations.DecodeOfEncodeIsTheOperation := by
  intro i f hwf henc
  cases i with
  | reqGetStatus => cases henc; rfl
  | reqSend e r m p => cases henc; exact decode_sendWord e r m hwf
  | reqRecv m => cases henc; exact decode_recvWord m
  | reqPoll => cases henc; rfl
  | reqGetRxlen => cases henc; rfl
  | reqCrc8 p => cases henc; exact decode_crc8Word hwf
  | reqReserved w => cases henc; exact decode_of_noKind (Option.isNone_iff_eq_none.1 hwf) []
  | evtTxc => cases henc; rfl
  | evtRxb b => cases henc; exact congrArg Decoded.instr (decodeEvent_rxb b)
  | evtLerr => cases henc; rfl
  | evtReserved w =>
    cases henc
    exact congrArg Decoded.instr (decodeEvent_of_noKind (Option.isNone_iff_eq_none.1 hwf))
  | wireFrame c p => cases henc; exact decode_frameBytes (of_decide_eq_true hwf)
  | apiSendAsync p => cases henc; exact decode_sendWord false 0 0 hwf
  | apiSendAndReceiveAsync p e m r => cases henc; exact decode_sendWord e r m hwf
  | apiReceiveAsync m => cases henc; exact decode_recvWord m
  | apiPollOnce => cases henc; rfl
  | apiGetStatus => cases henc; rfl
  | apiReceivedLength => cases henc; rfl
  | fnCrc8Compute _ => cases henc
  | fnEncode _ => cases henc
  | fnDecodeStep _ => cases henc
  | apiSendAndReceiveSync _ _ _ _ => cases henc
  | apiReceiveAndReplySync _ => cases henc

/-- Settles O2: by the format of the form, and whether its word has a row. -/
theorem encodeOfDecodeIsTheForm : Obligations.EncodeOfDecodeIsTheForm := by
  intro f i hdecode hreserved
  cases f with
  | request w p =>
    cases hkind : requestKind w with
    | none =>
      rw [decode_of_noKind hkind] at hdecode
      cases hdecode
      obtain rfl := hreserved w p rfl hkind
      exact ⟨Option.isNone_iff_eq_none.2 hkind, rfl, rfl⟩
    | some kind =>
      rw [decode_of_kind hkind] at hdecode
      split at hdecode <;> cases hdecode
      rename_i hlen
      exact ⟨requestOf_wf hlen, requestOf_isApi w p kind, encode_requestOf hkind hlen⟩
  | event w =>
    have hi : decodeEvent w = i := Decoded.instr.inj hdecode
    cases hkind : eventKind w with
    | none =>
      rw [← hi, decodeEvent_of_noKind hkind]
      exact ⟨Option.isNone_iff_eq_none.2 hkind, rfl, rfl⟩
    | some kind =>
      rw [← hi, decodeEvent_of_kind hkind]
      exact ⟨eventOf_wf w kind, eventOf_isApi w kind, encode_eventOf hkind⟩
  | wire bytes =>
    obtain ⟨c, p, rfl, hshort, rfl⟩ := decode_wire_instr hdecode
    exact ⟨decide_eq_true hshort, rfl, rfl⟩

/-- Settles O3: a word that matches a row has that row's kind, and `requestOf` names the fields. -/
theorem requestWordsDecodeByTheirPatterns : Obligations.RequestWordsDecodeByTheirPatterns := by
  intro w p
  refine ⟨fun h => ?_, fun h hlen => ?_, fun h => ?_, fun h => ?_, fun h => ?_, fun h hlen => ?_,
    fun hop => decode_of_noKind (requestKind_of_op hop) p⟩
  · exact decode_of_kind_length (kind := .getStatus) (requestKind_eq_some.2 h) rfl
  · rw [← fieldLen_toNat] at hlen
    rw [← fieldRetry_eq, ← fieldRxmax_eq]
    exact decode_of_kind_length (kind := .send) (requestKind_eq_some.2 h) hlen
  · rw [← fieldRxmax_eq]
    exact decode_of_kind_length (kind := .recv) (requestKind_eq_some.2 h) rfl
  · exact decode_of_kind_length (kind := .poll) (requestKind_eq_some.2 h) rfl
  · exact decode_of_kind_length (kind := .getRxlen) (requestKind_eq_some.2 h) rfl
  · rw [← fieldLen_toNat] at hlen
    exact decode_of_kind_length (kind := .crc8) (requestKind_eq_some.2 h) hlen

/-- Settles O4: a word with no row has no kind; the two requests that take a list check its length. -/
theorem unmatchedRequestIsIllegal : Obligations.UnmatchedRequestIsIllegal := by
  intro w p s
  refine ⟨fun hstatus hsend hrecv hpoll hrxlen hcrc => decode_of_noKind ?_ p, rfl, fun h hlen => ?_⟩
  · cases hkind : requestKind w with
    | none => rfl
    | some kind =>
      have hmatch := requestKind_eq_some.1 hkind
      cases kind with
      | getStatus => exact absurd ((and_fullRequest w).symm.trans hmatch) hstatus
      | send => exact absurd hmatch hsend
      | recv => exact absurd hmatch hrecv
      | poll => exact absurd ((and_fullRequest w).symm.trans hmatch) hpoll
      | getRxlen => exact absurd ((and_fullRequest w).symm.trans hmatch) hrxlen
      | crc8 => exact absurd hmatch hcrc
  · rw [← fieldLen_toNat] at hlen
    rcases h with hsend | hcrc
    · rw [decode_of_kind (kind := .send) (requestKind_eq_some.2 hsend)]
      exact if_neg hlen
    · rw [decode_of_kind (kind := .crc8) (requestKind_eq_some.2 hcrc)]
      exact if_neg hlen

/-- Settles O51: what a rejected request does is `effect_rejected`. -/
theorem rejectionsChangeNothing : Obligations.RejectionsChangeNothing := by
  intro i s t w h hresp hrej
  obtain ⟨u, heffect, ht⟩ := exec_effect h
  rw [ht] at hresp ⊢
  obtain ⟨o, rfl, hnone, hcause⟩ := effect_rejected heffect hresp hrej
  exact ⟨rfl, rfl, rfl, rfl, rfl, hnone, hcause⟩

/-- Settles O57: taking an input sets the clock to its tick, and no operation moves it. -/
theorem ticksNeverDecrease : Obligations.TicksNeverDecrease := by
  intro s t h
  rcases step_cases h with ⟨hnone, rfl⟩ | ⟨x, rest, hin, hle, hcases⟩
  · exact ⟨le_refl _, fun x rest hin => absurd (hnone.symm.trans hin) nofun⟩
  obtain ⟨htick, hinputs⟩ : t.env.tick = x.now ∧ t.inputs = rest := by
    rcases hcases with ⟨i, pending, u, -, hexec, ht⟩ | rfl | ⟨o, v, -, -, rfl⟩
    · rw [ht]
      exact exec_tick hexec
    · exact ⟨rfl, rfl⟩
    · exact ⟨rfl, rfl⟩
  refine ⟨hle.trans_eq (congrArg BitVec.toNat htick.symm), fun y later hin' => ?_⟩
  cases hin.symm.trans hin'
  exact ⟨htick, hinputs⟩

/-- Settles O5: a word with no row of R82 has no kind, and the reserved event only clears the output. -/
theorem unmatchedEventIsIgnored : Obligations.UnmatchedEventIsIgnored := by
  intro w s
  refine ⟨fun htxc hrxb hlerr => congrArg Decoded.instr (decodeEvent_of_noKind ?_), rfl⟩
  cases hkind : eventKind w with
  | none => rfl
  | some kind =>
    have hmatch := eventKind_eq_some.1 hkind
    cases kind with
    | txc => exact absurd ((and_fullEvent w).symm.trans hmatch) htxc
    | rxb => exact absurd hmatch hrxb
    | lerr => exact absurd ((and_fullEvent w).symm.trans hmatch) hlerr

/-- Settles O6: a word that matches a row has that row's kind; the rows have KIND 1 to 3 and ZERO_E 0. -/
theorem eventWordsDecodeByTheirPatterns : Obligations.EventWordsDecodeByTheirPatterns := by
  intro w
  refine ⟨fun h => ?_, fun h => ?_, fun h => ?_, fun h => ?_⟩
  · exact congrArg Decoded.instr (decodeEvent_of_kind (kind := .txc) (eventKind_eq_some.2 h))
  · rw [← fieldData_eq]
    exact congrArg Decoded.instr (decodeEvent_of_kind (kind := .rxb) (eventKind_eq_some.2 h))
  · exact congrArg Decoded.instr (decodeEvent_of_kind (kind := .lerr) (eventKind_eq_some.2 h))
  · exact congrArg Decoded.instr (decodeEvent_of_noKind (eventKind_of_high h))

/-- Settles O7: the decoder evaluates on each written-out word. -/
theorem writtenOutWordsDecode : Obligations.WrittenOutWordsDecode := by
  unfold Obligations.WrittenOutWordsDecode
  decide

/-- Settles O10: the tick is compared before the stimulus is looked at. -/
theorem decreasingTickIsRefused : Obligations.DecreasingTickIsRefused :=
  fun _ _ _ hin hless => step_of_decreasingTick hin hless

/-- Settles O15: the two lengths are the two cases of `crcRequest`, and a word with OP 5 is CRC8 or
reserved. -/
theorem crcRequestAnswersTheChecksum : Obligations.CrcRequestAnswersTheChecksum := by
  intro p s w
  refine ⟨fun hshort => ?_, fun hlong => ?_, fun h hlen => ?_, fun hop hnot => ?_⟩
  · have hrun : exec (.reqCrc8 p) s = .next (respond .ok (crc8 s.params.crcTable p) (quiet s)) :=
      congrArg Host.Outcome.next (if_neg (Nat.not_lt.2 hshort))
    rw [hrun, ← responseWord_ok]
    rfl
  · exact congrArg Host.Outcome.next (if_pos hlong)
  · rw [← fieldLen_toNat] at hlen
    exact decode_of_kind_length (kind := .crc8) (requestKind_eq_some.2 h) hlen
  · rcases requestKind_of_op_crc8 hop with hcrc | hnone
    · exact absurd (requestKind_eq_some.1 hcrc) hnot
    · exact decode_of_noKind hnone p

/-- Settles O16: ENCODE's precondition decides between its answer and its failure. -/
theorem internalFunctionsRunByThemselves : Obligations.InternalFunctionsRunByThemselves := by
  intro d p b s
  refine ⟨rfl, fun hshort => ?_, fun hlong => ?_, rfl⟩
  · exact if_pos hshort
  · exact if_neg (Nat.not_le.2 hlong)

/-- Settles O39: each call is defined as its request, and the accepted ones enter their phase. -/
theorem asyncCallsActAsTheirRequests : Obligations.AsyncCallsActAsTheirRequests := by
  intro e r m p s
  refine ⟨rfl, rfl, rfl, ⟨_, rfl, rfl⟩, ⟨_, rfl, rfl⟩, ⟨_, rfl, rfl⟩, fun hidle hshort => ?_,
    fun hidle hfits => ?_⟩
  · have hsend : ∀ e r m, (e = true ∨ r = 0#8) → exec (.apiSendAndReceiveAsync p e m r) s =
        .next (respond .ok 0#8 (sendEffects e r m p (quiet s))) := fun _ _ m hlegal =>
      congrArg Host.Outcome.next (startSend_accepted m hidle hlegal hshort)
    exact ⟨⟨_, hsend false 0#8 0#16 (.inr rfl), rfl, rfl⟩,
      fun hlegal => ⟨_, hsend e r m hlegal, rfl, rfl, rfl, rfl⟩⟩
  · exact ⟨_, startRecv_accepted m hidle hfits, rfl, rfl⟩

/-- Settles O40: the starting request is accepted or rejected, and `afterStart` goes on or returns. -/
theorem syncRoutinesBeginWithTheirRequest : Obligations.SyncRoutinesBeginWithTheirRequest := by
  intro e r m p s
  have hrejected : ∀ c, sendReason e r p s.block = some c →
      exec (.apiSendAndReceiveSync p e m r) s = .next { s with
        host := ⟨s.host.calls, some (.failure c.bits)⟩
        out := ⟨some (responseWord true c 0#8), [], none⟩ } := fun c hreason => by
    rw [← afterStart_rejected .srsPoll]
    exact congrArg (fun t => Host.Outcome.next (afterStart .srsPoll t))
      (startSend_of_reason (s := enter .srsPoll s) m hreason)
  refine ⟨fun hidle hlegal hshort => ?_, fun hbusy => hrejected _ (sendReason_busy hbusy),
    fun hidle hnoReply hretry => hrejected _ (sendReason_invalidArgument hidle hnoReply hretry),
    fun hidle hlegal hlong => hrejected _ (sendReason_lengthError hidle hlegal hlong),
    fun hidle hfits => ?_, fun hbusy => ?_⟩
  · refine ⟨_, congrArg Host.Outcome.next (startSend_accepted m hidle hlegal hshort), rfl, ?_⟩
    refine congrArg Host.Outcome.next ?_
    rw [startSend_accepted (s := enter .srsPoll s) m hidle hlegal hshort, afterStart_accepted]
    rfl
  · refine ⟨_, startRecv_accepted m hidle hfits, rfl, ?_⟩
    refine thenState_next.2 ⟨_, startRecv_accepted (s := enter .rrsPoll s) m hidle hfits, ?_⟩
    rw [afterStart_accepted]
    rfl
  · refine thenState_next.2 ⟨_, startRecv_busy (s := enter .rrsPoll s) m hbusy, ?_⟩
    rw [afterStart_rejected]
    rfl

end Sys2Proof.Proofs
end

section
/-! The statements of 40_crc_engine.md: the checksum as a fold over the table, and what the checksum of
the empty list makes of the empty frame. -/

namespace Sys2Proof.Proofs

open Sys2Proof.Machine

/-! ## The fold of R101 -/

section Fold

variable (table : Vector Byte 256)

/-- No table entry is read for the empty list (R102). -/
@[simp] theorem crc8_nil : crc8 table [] = 0xFF := rfl

/-- The prefix recurrence (R104 (d)). -/
theorem crc8_append (d e : List Byte) :
    crc8 table (d ++ e) = e.foldl (crcByte table) (crc8 table d) :=
  List.foldl_append

/-- The last byte of the list is one more turn of the loop of R101. -/
theorem crc8_concat (d : List Byte) (b : Byte) :
    crc8 table (d ++ [b]) = crcByte table (crc8 table d) b :=
  crc8_append table d [b]

end Fold

/-! ## The empty frame -/

@[simp] theorem slice_zero (m : Memory) : Memory.slice m 0 = [] := rfl

/-- ENCODE of the empty payload writes no TXPAY byte (R111). -/
theorem encodeFrame_nil (table : Vector Byte 256) (k : Block) :
    encodeFrame table [] k = { k with txLen := 0#8, txCrc := 0xFF } := rfl

theorem stagedPayload_of_empty {k : Block} (hlen : k.txLen = 0#8) : stagedPayload k = [] := by
  rw [stagedPayload, hlen]
  exact slice_zero k.txpay

theorem receivedPayload_of_empty {k : Block} (hlen : k.rxLen = 0#8) : receivedPayload k = [] := by
  rw [receivedPayload, hlen]
  exact slice_zero k.rxbuf

/-! ## POLL of a complete reception -/

/-- POLL of a complete reception is the CRC check, answered Ok (R164, R170). -/
theorem exec_reqPoll_of_complete {s : State} (hphase : s.block.phase = .receivedAwaitingCrc) :
    exec .reqPoll s = .next (respond .ok 0#8 (crcCheck (quiet s))) := by
  have hblock : pollBlock (quiet s) = crcCheck (quiet s) := by
    simp [pollBlock, hphase]
  exact congrArg (fun u => Host.Outcome.next (respond .ok 0#8 u)) hblock

/-- The CRC check latches the one status that the comparison gives (R170). -/
theorem crcCheck_eq_latch (s : State) :
    crcCheck s = latch (if crc8 s.params.crcTable (receivedPayload s.block) = s.block.rxCrc then .ok
      else .crcError) s :=
  (apply_ite (latch · s) _ _ _).symm

/-! ## The statements -/

/-- Settles O14: the two recurrences of the fold. -/
theorem crcIsTheTableFold : Obligations.CrcIsTheTableFold :=
  fun table d e b => ⟨crc8_concat table d b, crc8_append table d e⟩

/-- Settles O13: both payloads of length 0 are the empty list, whatever the memories hold. -/
theorem crcOfTheEmptyListIsFF : Obligations.CrcOfTheEmptyListIsFF := by
  intro table k s
  refine ⟨crc8_nil table, ?_, fun hphase hlen => ?_⟩
  · rw [encodeFrame_nil, staged, stagedPayload_of_empty rfl]
    rfl
  · have hpayload : receivedPayload (quiet s).block = [] := receivedPayload_of_empty hlen
    rw [exec_reqPoll_of_complete hphase, crcCheck_eq_latch, hpayload, crc8_nil]
    simp only [eq_comm (a := (0xFF : Byte))]
    rfl

end Sys2Proof.Proofs
end

section
/-! The statements of 41_packet_codec.md: what ENCODE stages, what DECODE_STEP does at each count, the decoder
over an encoded frame behind noise, and who writes RXBUF and RX_MAX. -/

namespace Sys2Proof.Proofs

open Sys2Proof.Machine Sys2Proof.Safety

/-! ## ENCODE -/

/-- ENCODE writes TXPAY from offset 0 up to the length of the payload (R111). -/
theorem read_encodeFrame {table : Vector Byte 256} {p : List Byte} {k : Block}
    (hwf : Memory.wf k.txpay = true) (hshort : p.length ≤ Config.maxLen) (a : Nat) :
    Memory.read (encodeFrame table p k).txpay a =
      if a < p.length then p.getD a 0 else Memory.read k.txpay a := by
  have hread := Memory.read_writeList (b := a) hwf (payload_fits_space hshort)
  simp only [Nat.zero_le, true_and, Nat.zero_add, Nat.sub_zero] at hread
  exact hread

/-! ## DECODE_STEP by the byte it takes -/

section DecodeStepByCount

variable {b : Byte} {k : Block}

/-- Before the magic byte every other byte is ignored (R114). -/
theorem decodeStep_noise (hcnt : k.rxCnt = 0#9) (hb : b ≠ Config.magic) :
    decodeStep b k = (.cont, k) := by
  simp [decodeStep, hcnt, hb]

/-- DECODE_STEP on a length that RX_MAX does not allow (R115). -/
theorem decodeStep_lengthAbove (hcnt : k.rxCnt = 1#9) (habove : k.rxMax.toNat < b.toNat) :
    decodeStep b k = (.error, k) := by
  have hlt : k.rxMax < b.setWidth 16 := by bv_omega
  simp [decodeStep, hcnt, hlt]

/-- DECODE_STEP beyond the last payload byte (D21, log 21). -/
theorem decodeStep_beyondPayload (hheader : 3 ≤ k.rxCnt.toNat)
    (hwhole : 3 + k.rxLen.toNat ≤ k.rxCnt.toNat) : decodeStep b k = (.error, k) := by
  rcases decodeStep_cases b k with ⟨h, -, -⟩ | ⟨h, -, -⟩ | ⟨h, -, -⟩ | ⟨h, -, -⟩ | ⟨h, -⟩ |
    ⟨-, h, -⟩ | ⟨-, -, e⟩
  · simp [h] at hheader
  · simp [h] at hheader
  · simp [h] at hheader
  · simp [h] at hheader
  · simp [h] at hheader
  · omega
  · exact e

/-- A payload byte is read back at `RX_CNT - 3`, and every other offset is kept (R117). -/
theorem read_write_payloadOffset (hwf : Memory.wf k.rxbuf = true) (hheader : 3 ≤ k.rxCnt.toNat)
    (a : Nat) : Memory.read (Memory.write k.rxbuf (payloadOffset k) b) a =
      if a + 3 = k.rxCnt.toNat then b else Memory.read k.rxbuf a := by
  have hoffset : payloadOffset k = a ↔ a + 3 = k.rxCnt.toNat := by
    simp only [payloadOffset, Config.hdrLen]
    omega
  exact (Memory.read_write hwf).trans (if_congr hoffset rfl rfl)

/-- Everything DECODE_STEP can do to RXBUF: keep it, or store the byte while payload is missing (R117). -/
theorem decodeStep_rxbuf_cases (b : Byte) (k : Block) :
    (decodeStep b k).2.rxbuf = k.rxbuf ∨
    (3 ≤ k.rxCnt.toNat ∧ k.rxCnt.toNat < 3 + k.rxLen.toNat ∧
      (decodeStep b k).2.rxbuf = Memory.write k.rxbuf (payloadOffset k) b) := by
  rcases decodeStep_cases b k with ⟨-, -, e⟩ | ⟨-, -, e⟩ | ⟨-, -, e⟩ | ⟨-, -, e⟩ | ⟨-, e⟩ |
    ⟨hheader, hmissing, e⟩ | ⟨-, -, e⟩ <;> rw [e]
  · exact .inl rfl
  · exact .inl rfl
  · exact .inl rfl
  · exact .inl rfl
  · exact .inl rfl
  · exact .inr ⟨hheader, hmissing, rfl⟩
  · exact .inl rfl

/-- A byte of RXBUF that DECODE_STEP changes is the next missing payload byte (R117, R119). -/
theorem changed_byte_is_next_payload (hwf : Memory.wf k.rxbuf = true) {a : Nat}
    (hchanged : Memory.read (decodeStep b k).2.rxbuf a ≠ Memory.read k.rxbuf a) :
    a + 3 = k.rxCnt.toNat ∧ a < k.rxLen.toNat := by
  rcases decodeStep_rxbuf_cases b k with e | ⟨hheader, hmissing, e⟩
  · rw [e] at hchanged
    exact absurd rfl hchanged
  · rw [e, read_write_payloadOffset hwf hheader] at hchanged
    have hnext : a + 3 = k.rxCnt.toNat := by
      by_contra h
      exact hchanged (if_neg h)
    exact ⟨hnext, by omega⟩

end DecodeStepByCount

/-! ## The decoder over a list of bytes -/

/-- Noise before the magic byte leaves no trace (R114, R120). -/
theorem decodeBytes_noise {noise bytes : List Byte} {k : Block} (hcnt : k.rxCnt = 0#9)
    (hnoise : ∀ b ∈ noise, b ≠ Config.magic) :
    decodeBytes (noise ++ bytes) k = decodeBytes bytes k := by
  induction noise with
  | nil => rfl
  | cons b rest ih =>
    obtain ⟨hb, hrest⟩ := List.forall_mem_cons.1 hnoise
    rw [List.cons_append, decodeBytes_of_cont (decodeStep_noise hcnt hb), ih hrest]

/-- A frame whose length RX_MAX does not allow ends in error on its second byte (R115, R120). -/
theorem decodeBytes_frame_lengthAbove {c : Byte} {p after : List Byte} {k : Block}
    (hcnt : k.rxCnt = 0#9) (hshort : p.length ≤ Config.maxLen) (habove : k.rxMax.toNat < p.length) :
    decodeBytes (frameBytes c p ++ after) k = (.error, { k with rxCnt := 1#9 }, c :: (p ++ after)) := by
  have hlength : decodeStep (BitVec.ofNat 8 p.length) { k with rxCnt := 1#9 } =
      (.error, { k with rxCnt := 1#9 }) :=
    decodeStep_lengthAbove rfl (habove.trans_eq (toNat_lengthByte hshort).symm)
  simp only [frameBytes, List.cons_append, List.nil_append]
  rw [decodeBytes_of_cont (decodeStep_magic hcnt), decodeBytes_of_error hlength]

theorem rxCnt_frameStored {c : Byte} {p : List Byte} {k : Block} (hshort : p.length ≤ Config.maxLen) :
    (frameStored c p k).rxCnt.toNat = 3 + p.length := by
  have hlen : p.length < 256 := Nat.lt_succ_of_le hshort
  simp only [frameStored, BitVec.toNat_ofNat]
  omega

/-! ## Who writes RXBUF and RX_MAX -/

/-- RXBUF is written by the decoder alone, in RXB or run by itself (R117, R119). -/
theorem effect_rxbuf {i : Instr} {s t : State} (h : Effect i s t) :
    t.block.rxbuf = s.block.rxbuf ∨ ∃ b, i = .evtRxb b ∨ i = .fnDecodeStep b := by
  cases h with
  | rxContinued b hop => exact .inr ⟨b, .inl hop⟩
  | rxFailed b hop => exact .inr ⟨b, .inl hop⟩
  | rxCompleted b hop => exact .inr ⟨b, .inl hop⟩
  | decoded b _ hop => exact .inr ⟨b, .inr hop⟩
  | _ => exact .inl rfl

/-- RX_MAX is written by an accepted SEND or RECV alone (R27, R119). -/
theorem effect_rxMax {i : Instr} {s t : State} (h : Effect i s t) :
    t.block.rxMax = s.block.rxMax ∨ ((isSend i ∨ isRecv i) ∧ s.block.phase = .idle) := by
  cases h with
  | sent _ _ _ _ hsend hidle => exact .inr ⟨.inl hsend, hidle⟩
  | opened _ hrecv hidle => exact .inr ⟨.inr hrecv, hidle⟩
  | rxContinued b => exact .inl (decodeStep_rxMax b s.block)
  | rxFailed b => exact .inl (decodeStep_rxMax b s.block)
  | rxCompleted b => exact .inl (decodeStep_rxMax b s.block)
  | decoded b => exact .inl (decodeStep_rxMax b s.block)
  | _ => exact .inl rfl

/-! ## The statements -/

/-- Settles O23: the noise is skipped, then the frame is taken whole or fails on its length byte. -/
theorem decodeInvertsEncode : Obligations.DecodeInvertsEncode := by
  intro table p noise after k hwf hcnt hshort hnoise
  have hbytes : noise ++ [0x55, BitVec.ofNat 8 p.length, crc8 table p] ++ p ++ after =
      noise ++ (frameBytes (crc8 table p) p ++ after) := by
    simp [frameBytes, Config.magic]
  rw [hbytes, decodeBytes_noise hcnt hnoise]
  refine ⟨fun hmax => ?_, decodeBytes_frame_lengthAbove hcnt hshort⟩
  exact ⟨frameStored (crc8 table p) p k, decodeBytes_frame hcnt hshort hmax,
    receivedPayload_frameStored _ hwf hshort, rfl, toNat_lengthByte hshort, rxCnt_frameStored hshort,
    fun _ => read_frameStored _ hwf hshort⟩

/-- Settles O17: the staged frame is the payload's wire frame. -/
theorem encodeStagesTheFrame : Obligations.EncodeStagesTheFrame :=
  fun _ _ _ hwf hshort => ⟨rfl, read_encodeFrame hwf hshort, staged_encodeFrame hwf hshort⟩

/-- Settles O22: RX_CNT does not wrap, and RXBUF changes by one `Memory.write`. -/
theorem decoderStoresThePayload : Obligations.DecoderStoresThePayload := by
  intro b k hwf hheader
  refine ⟨fun hmissing => ?_, decodeStep_beyondPayload hheader⟩
  rw [decodeStep_payload hheader hmissing]
  exact ⟨rfl, rfl, rxCnt_succ hmissing, read_write_payloadOffset hwf hheader⟩

/-- Settles O24: the offset of a changed byte is below RX_LEN, which I3 of R38 bounds by RX_MAX in a
reception. -/
theorem rxbufWritesStayBelowTheLength : Obligations.RxbufWritesStayBelowTheLength := by
  refine ⟨fun b k p a hwf hchanged => ?_, fun i s t h => ?_⟩
  · obtain ⟨hnext, hbelow⟩ := changed_byte_is_next_payload hwf hchanged
    have hlen : k.rxLen.toNat < 256 := k.rxLen.isLt
    refine ⟨hnext, hbelow, by omega, fun hinv hphase => ?_⟩
    exact hbelow.trans_le (hinv.lengthBounded (.inl hphase) (by omega))
  · obtain ⟨u, heffect, ht⟩ := exec_effect h
    rw [ht]
    exact ⟨(effect_rxbuf heffect).resolve_left, (effect_rxMax heffect).resolve_left⟩

/-- Settles O18, by `decodeStep_magic`. -/
theorem decoderTakesTheMagic : Obligations.DecoderTakesTheMagic :=
  fun _ => decodeStep_magic

/-- Settles O19: the decoder answers `continue`, after which RXB refreshes the deadline and re-arms. -/
theorem noiseBeforeAFrameIsIgnored : Obligations.NoiseBeforeAFrameIsIgnored := by
  intro b s hcnt hb
  have hdecode : decodeStep b s.block = (.cont, s.block) := decodeStep_noise hcnt hb
  refine ⟨hdecode, fun hphase hfits => ?_⟩
  calc exec (.evtRxb b) s = afterDecode .cont (takeReceived (quiet s)) :=
        byteReceived_of_receiving hphase hdecode
    _ = _ := afterDecode_cont_fits hfits

/-- Settles O20: the two clauses are the two outcomes of the comparison. -/
theorem decoderChecksTheLength : Obligations.DecoderChecksTheLength :=
  fun _ _ hcnt => ⟨decodeStep_lengthAbove hcnt, decodeStep_length hcnt⟩

/-- Settles O21, by `decodeStep_crc`. -/
theorem decoderStoresTheCrc : Obligations.DecoderStoresTheCrc :=
  fun _ _ => decodeStep_crc

end Sys2Proof.Proofs
end

section
/-! The statements of 42_link_state_machine.md: what each event does in each phase, that PHASE changes by
the table of R131 alone, and how an operation with retries ends when the peer is silent. -/

namespace Sys2Proof.Proofs

open Sys2Proof.Machine Sys2Proof.Safety

/-! ## The events by phase -/

section Events

variable {s : State}

/-- `arm_reception` where the deadline fits (R134, R163). -/
theorem armReception_fits (hfits : s.env.tick.toNat + s.params.byteTimeout.toNat < 2 ^ 32) :
    armReception s = .next (emitRxArm { s with
      block := { s.block with rxCnt := 0#9, deadline := s.env.tick + s.params.byteTimeout } }) := by
  have hrefresh := refreshDeadline_fits (s := { s with block := { s.block with rxCnt := 0#9 } }) hfits
  rw [armReception, hrefresh]
  rfl

theorem txDone_of_notTransmitting (hphase : s.block.phase ≠ .transmitting) :
    txDone s = .next (takeTxDone (quiet s)) := by
  simp [txDone, hphase]

theorem txDone_of_noReply (hphase : s.block.phase = .transmitting) (hrxv : s.block.rxv = false) :
    txDone s = .next (latch .ok (emitCarrierStop (takeTxDone (quiet s)))) := by
  simp [txDone, hphase, hrxv]

theorem txDone_of_reply (hphase : s.block.phase = .transmitting) (hrxv : s.block.rxv = true) :
    txDone s = armReception { emitCarrierStop (takeTxDone (quiet s)) with
      block := { s.block with carrier := false, phase := .receiving } } := by
  simp [txDone, hphase, hrxv]

theorem byteReceived_of_notReceiving {b : Byte} (hphase : s.block.phase ≠ .receiving) :
    byteReceived b s = .next (takeReceived (quiet s)) := by
  simp [byteReceived, hphase]

theorem lineFault_of_idle (hphase : s.block.phase = .idle) :
    lineFault s = takeReceived (quiet s) := by
  simp [lineFault, hphase]

theorem lineFault_of_busy (hphase : s.block.phase ≠ .idle) :
    lineFault s = latch .error (takeReceived (quiet s)) := by
  simp [lineFault, hphase]

end Events

/-! ## The rows of R131 -/

/-- Row T1. -/
theorem phaseRow_of_send {i : Instr} (h : isSend i) : phaseRow i .idle .transmitting := by
  rw [isSend] at h
  split at h
  · next hcore => simp [phaseRow, hcore]
  · next hcore => simp [phaseRow, hcore]
  · exact h.elim

/-- Row T11. -/
theorem phaseRow_of_recv {i : Instr} (h : isRecv i) : phaseRow i .idle .receiving := by
  rw [isRecv] at h
  split at h
  · next hcore => simp [phaseRow, hcore]
  · next hcore => simp [phaseRow, hcore]
  · exact h.elim

/-- Each effect keeps PHASE or is one of the rows, whose first phase it asks for. -/
theorem effect_phaseRow {i : Instr} {s t : State} (h : Effect i s t) :
    phaseRow i s.block.phase t.block.phase := by
  cases h with
  | sent _ _ _ _ hsend hidle => rw [hidle]; exact phaseRow_of_send hsend
  | opened _ hrecv hidle => rw [hidle]; exact phaseRow_of_recv hrecv
  | retransmitted hcore hphase => simp [phaseRow, hcore, hphase]
  | timedOut hcore hphase => simp [phaseRow, hcore, hphase]
  | checked _ hcore hphase => simp [phaseRow, hcore, hphase]
  | txOk hop hphase => subst hop; exact .inr (.inl ⟨hphase, rfl⟩)
  | txReply hop hphase => subst hop; exact .inr (.inr ⟨hphase, rfl⟩)
  | rxContinued b => exact .inl (decodeStep_phase b s.block).symm
  | rxFailed b hop hphase => subst hop; exact .inr (.inl ⟨hphase, rfl⟩)
  | rxCompleted b hop hphase => subst hop; exact .inr (.inr ⟨hphase, rfl⟩)
  | faulted hop => subst hop; exact .inr rfl
  | decoded b => exact .inl (decodeStep_phase b s.block).symm
  | _ => exact .inl rfl

/-! ## POLL past the deadline, and the TXC of a retransmission -/

/-- A late POLL with a retry left sends the staged frame again (R167). -/
theorem exec_reqPoll_of_retryLeft {s : State} (hphase : s.block.phase = .receiving)
    (hlate : s.block.deadline.toNat < s.env.tick.toNat) (hleft : s.block.retry ≠ 0#8) :
    exec .reqPoll s = .next (respond .ok 0#8 (retransmit (quiet s))) := by
  have helapsed : elapsed s.env.tick s.block.deadline = true := decide_eq_true (BitVec.lt_def.2 hlate)
  have hblock : pollBlock (quiet s) = retransmit (quiet s) := by
    simp [pollBlock, hphase, helapsed, hleft]
  exact congrArg (fun u => Host.Outcome.next (respond .ok 0#8 u)) hblock

/-- A late POLL with no retry left gives up (R168). -/
theorem exec_reqPoll_of_noRetry {s : State} (hphase : s.block.phase = .receiving)
    (hlate : s.block.deadline.toNat < s.env.tick.toNat) (hspent : s.block.retry = 0#8) :
    exec .reqPoll s = .next (respond .ok 0#8 (latch .timeout (quiet s))) := by
  have helapsed : elapsed s.env.tick s.block.deadline = true := decide_eq_true (BitVec.lt_def.2 hlate)
  have hblock : pollBlock (quiet s) = latch .timeout (quiet s) := by
    simp [pollBlock, hphase, helapsed, hspent]
  exact congrArg (fun u => Host.Outcome.next (respond .ok 0#8 u)) hblock

/-- The state in which a POLL at tick `p` has started a retransmission (R167). -/
def retransmitting (p : Tick) (rest : List Input) (s : State) : State :=
  respond .ok 0#8 (retransmit (quiet (present (pollAt p) rest s)))

/-- The state in which a TXC at tick `x` has opened the reception of the reply (R133, R134). -/
def awaitingReply (x : Tick) (rest : List Input) (s : State) : State :=
  emitRxArm { emitCarrierStop (takeTxDone (quiet (present (txcAt x) rest s))) with
    block := { s.block with
      carrier := false, phase := .receiving, rxCnt := 0#9, deadline := x + s.params.byteTimeout } }

section SilentSteps

variable {s : State} {t : Tick} {rest : List Input}

theorem step_of_poll (hin : s.inputs = pollAt t :: rest) (htick : s.env.tick.toNat ≤ t.toNat) :
    step s = exec .reqPoll (present (pollAt t) rest s) :=
  stepRunsTheDecodedOperation s t _ rest .reqPoll hin htick (.inl ⟨_, _, rfl, rfl⟩)

theorem step_of_pollRetry (hin : s.inputs = pollAt t :: rest) (htick : s.env.tick.toNat ≤ t.toNat)
    (hphase : s.block.phase = .receiving) (hlate : s.block.deadline.toNat < t.toNat)
    (hleft : s.block.retry ≠ 0#8) : step s = .next (retransmitting t rest s) :=
  (step_of_poll hin htick).trans (exec_reqPoll_of_retryLeft hphase hlate hleft)

theorem step_of_pollTimeout (hin : s.inputs = pollAt t :: rest) (htick : s.env.tick.toNat ≤ t.toNat)
    (hphase : s.block.phase = .receiving) (hlate : s.block.deadline.toNat < t.toNat)
    (hspent : s.block.retry = 0#8) :
    step s = .next (respond .ok 0#8 (latch .timeout (quiet (present (pollAt t) rest s)))) :=
  (step_of_poll hin htick).trans (exec_reqPoll_of_noRetry hphase hlate hspent)

theorem step_of_txcReply (hin : s.inputs = txcAt t :: rest) (htick : s.env.tick.toNat ≤ t.toNat)
    (hnone : s.env.pending = []) (hphase : s.block.phase = .transmitting)
    (hrxv : s.block.rxv = true) (hfits : t.toNat + s.params.byteTimeout.toNat < 2 ^ 32) :
    step s = .next (awaitingReply t rest s) := calc
  step s = txDone (present (txcAt t) rest s) :=
    stepRunsTheDecodedOperation s t _ rest .evtTxc hin htick
      (.inr (.inr (.inl ⟨_, rfl, hnone, rfl⟩)))
  _ = armReception _ := txDone_of_reply hphase hrxv
  _ = .next (awaitingReply t rest s) := armReception_fits hfits

end SilentSteps

/-- The state after one round of a silent peer: the frame was sent again and the reception is open anew. -/
def silentRound (p x : Tick) (rest : List Input) (s : State) : State :=
  awaitingReply x rest (retransmitting p (txcAt x :: rest) s)

section SilentRound

variable {p x : Tick} {rest : List Input} {s : State}

theorem silentRound_retry (hleft : s.block.retry ≠ 0#8) :
    (silentRound p x rest s).block.retry.toNat + 1 = s.block.retry.toNat :=
  retry_pred hleft

theorem silentRound_deadline (hfits : x.toNat + s.params.byteTimeout.toNat < 2 ^ 32) :
    (silentRound p x rest s).block.deadline.toNat = x.toNat + s.params.byteTimeout.toNat :=
  BitVec.toNat_add_of_lt hfits

end SilentRound

/-- A POLL past the deadline with a retry left and the TXC after it are one round (R169). -/
theorem run_silentRound {s : State} {p x : Tick} {rest : List Input}
    (hin : s.inputs = pollAt p :: txcAt x :: rest) (hphase : s.block.phase = .receiving)
    (hrxv : s.block.rxv = true) (hnone : s.env.pending = []) (hleft : s.block.retry ≠ 0#8)
    (hlate : s.block.deadline.toNat < p.toNat) (htick : s.env.tick.toNat ≤ p.toNat)
    (horder : p.toNat ≤ x.toNat) (hfits : x.toNat + s.params.byteTimeout.toNat < 2 ^ 32) :
    Host.Core.run Sys2Proof.core 1 s = .next (retransmitting p (txcAt x :: rest) s) ∧
      ∀ n, Host.Core.run Sys2Proof.core (2 + n) s =
        Host.Core.run Sys2Proof.core n (silentRound p x rest s) := by
  have hpoll := step_of_pollRetry hin htick hphase hlate hleft
  have htxc := step_of_txcReply (s := retransmitting p (txcAt x :: rest) s) rfl horder hnone rfl hrxv
    hfits
  exact ⟨run_step hpoll, fun _ => run_append ((run_step hpoll).trans (run_step htxc))⟩

/-! ## The statements -/

/-- Settles O45, by induction on the retries: a POLL and a TXC take one and open the reception anew, and
with none left the last POLL gives up. -/
theorem silentPeerEndsInTimeoutAfterAllRetries :
    Obligations.SilentPeerEndsInTimeoutAfterAllRetries := by
  intro s retries last rest hphase hrxv hnone hlen hticks hin
  induction retries generalizing s with
  | nil =>
    obtain ⟨hlate, htick⟩ := hticks
    have hspent : s.block.retry = 0#8 := BitVec.eq_of_toNat_eq hlen.symm
    have hstep := step_of_pollTimeout hin htick hphase hlate hspent
    rw [← hlen]
    exact ⟨fun k hk => absurd hk (Nat.not_lt_zero k),
      _, run_step hstep, rfl, rfl, hspent, rfl, rfl, rfl⟩
  | cons round later ih =>
    obtain ⟨p, x⟩ := round
    obtain ⟨hlate, htick, horder, hfits, hlater⟩ := hticks
    rw [List.length_cons] at hlen
    have hleft : s.block.retry ≠ 0#8 := by
      intro hspent
      simp [hspent] at hlen
    rw [silentPeer, List.cons_append, List.cons_append] at hin
    obtain ⟨hpoll, hround⟩ := run_silentRound hin hphase hrxv hnone hleft hlate htick horder hfits
    have hretry := silentRound_retry (p := p) (x := x) (rest := silentPeer later last ++ rest) hleft
    obtain ⟨hrounds, u, hend, hu⟩ := ih (silentRound p x (silentPeer later last ++ rest) s) rfl hrxv hnone
      (by omega) (by rw [silentRound_deadline hfits]; exact hlater) rfl
    rw [← hretry]
    refine ⟨fun k hk => ?_, u, ?_, hu⟩
    · cases k with
      | zero => exact ⟨⟨_, hpoll, rfl, rfl, rfl⟩, _, hround 0, rfl, rfl⟩
      | succ k =>
        obtain ⟨⟨v, hsent, hsending, hcount, hout⟩, w, hopened, hw⟩ := hrounds k (Nat.lt_of_succ_lt_succ hk)
        refine ⟨⟨v, ?_, hsending, by omega, hout⟩, w, ?_, hw⟩
        · rw [← hsent, ← hround, show 2 * (k + 1) + 1 = 2 + (2 * k + 1) by omega]
        · rw [← hopened, ← hround, show 2 * (k + 1) + 2 = 2 + (2 * k + 2) by omega]
    · rw [← hend, ← hround]
      exact congrArg (Host.Core.run Sys2Proof.core · s) (by omega)

/-- Settles O49: a row or an unchanged PHASE for every effect. -/
theorem phaseChangesAreRowsOfTheTable : Obligations.PhaseChangesAreRowsOfTheTable := by
  intro i s t h
  obtain ⟨u, heffect, ht⟩ := exec_effect h
  have hrow : phaseRow i s.block.phase u.block.phase := effect_phaseRow heffect
  rw [ht]
  exact hrow

/-- Settles O25: the three clauses are the three branches of `txDone`. -/
theorem txcEndsTheTransmission : Obligations.TxcEndsTheTransmission := by
  intro s
  refine ⟨txDone_of_noReply, fun hphase hrxv hfits => ?_, txDone_of_notTransmitting⟩
  calc exec .evtTxc s = armReception _ := txDone_of_reply hphase hrxv
    _ = _ := armReception_fits hfits

/-- Settles O26: in `Receiving` the outcome is `afterDecode` of the decoder's answer. -/
theorem rxbFollowsTheDecoder : Obligations.RxbFollowsTheDecoder := by
  intro b s k
  refine ⟨fun hphase hdecode hfits => ?_, byteReceived_of_receiving, byteReceived_of_receiving,
    byteReceived_of_notReceiving⟩
  calc exec (.evtRxb b) s = afterDecode .cont { takeReceived (quiet s) with block := k } :=
        byteReceived_of_receiving hphase hdecode
    _ = _ := afterDecode_cont_fits hfits

/-- Settles O27: the two clauses are the two branches of `lineFault`. -/
theorem lineFaultLatchesError : Obligations.LineFaultLatchesError :=
  fun _ => ⟨fun hbusy => congrArg Host.Outcome.next (lineFault_of_busy hbusy),
    fun hidle => congrArg Host.Outcome.next (lineFault_of_idle hidle)⟩

/-- Settles O28: each event in a phase where the table of R131 has no row for it. -/
theorem eventsWithoutARowAreIgnored : Obligations.EventsWithoutARowAreIgnored :=
  fun _ _ => ⟨txDone_of_notTransmitting, byteReceived_of_notReceiving,
    fun hidle => congrArg Host.Outcome.next (lineFault_of_idle hidle)⟩

end Sys2Proof.Proofs
end

section
/-! The statements of 43_retry_timeout.md: the deadline sum that the register cannot hold, and what POLL
does in each phase. -/

namespace Sys2Proof.Proofs

open Sys2Proof.Machine

/-! ## A deadline beyond the register -/

section Beyond

variable {s : State}

theorem armReception_beyond (hbeyond : 2 ^ 32 ≤ s.env.tick.toNat + s.params.byteTimeout.toNat) :
    armReception s = .refused .deadlineOutOfRange := by
  rcases armReception_cases s with ⟨hfits, -⟩ | ⟨-, hrefused⟩
  · exact absurd hbeyond (Nat.not_le.2 hfits)
  · exact hrefused

theorem startRecv_beyond (m : Len) (hidle : s.block.phase = .idle)
    (hbeyond : 2 ^ 32 ≤ s.env.tick.toNat + s.params.byteTimeout.toNat) :
    startRecv m s = .refused .deadlineOutOfRange := by
  rcases startRecv_cases m s with ⟨hbusy, -⟩ | ⟨-, hfits, -⟩ | ⟨-, -, hrefused⟩
  · exact absurd hidle hbusy
  · exact absurd hbeyond (Nat.not_le.2 hfits)
  · exact hrefused

theorem afterDecode_cont_beyond (hbeyond : 2 ^ 32 ≤ s.env.tick.toNat + s.params.byteTimeout.toNat) :
    afterDecode .cont s = .refused .deadlineOutOfRange := by
  rw [afterDecode, refreshDeadline_beyond hbeyond]
  rfl

end Beyond

/-! ## POLL with nothing to do -/

/-- The three rows of R164 that leave the block alone (R166, R171). -/
theorem pollBlock_of_waiting {s : State}
    (hwaiting : s.block.phase = .idle ∨ s.block.phase = .transmitting ∨
      (s.block.phase = .receiving ∧ s.env.tick.toNat ≤ s.block.deadline.toNat)) :
    pollBlock s = s := by
  rcases hwaiting with hidle | htransmitting | ⟨hreceiving, hearly⟩
  · simp [pollBlock, hidle]
  · simp [pollBlock, htransmitting]
  · have helapsed : elapsed s.env.tick s.block.deadline = false :=
      decide_eq_false fun hlate => Nat.not_lt.2 hearly (BitVec.lt_def.1 hlate)
    simp [pollBlock, hreceiving, helapsed]

/-! ## The statements -/

/-- Settles O29: each of the three steps ends in `refresh_deadline`, at the tick and the timeout of `s`. -/
theorem deadlineBeyondTheRegisterIsRefused : Obligations.DeadlineBeyondTheRegisterIsRefused := by
  intro m b s
  refine ⟨fun hbeyond => ⟨fun hidle => startRecv_beyond m hidle hbeyond, fun hphase hrxv => ?_,
    fun hphase hcont => ?_⟩, fun hfits => ⟨_, BitVec.toNat_add_of_lt hfits, refreshDeadline_fits hfits⟩⟩
  · calc exec .evtTxc s = armReception _ := txDone_of_reply hphase hrxv
      _ = .refused .deadlineOutOfRange := armReception_beyond hbeyond
  · calc exec (.evtRxb b) s = afterDecode .cont _ :=
          byteReceived_of_receiving hphase (Prod.ext hcont rfl)
      _ = .refused .deadlineOutOfRange := afterDecode_cont_beyond hbeyond

/-- Settles O30: POLL adds to `pollBlock` only its answer. -/
theorem pollWithNothingToDoChangesNothing : Obligations.PollWithNothingToDoChangesNothing := by
  intro s hwaiting
  have hblock : pollBlock (quiet s) = quiet s := pollBlock_of_waiting hwaiting
  exact congrArg (fun u => Host.Outcome.next (respond .ok 0#8 u)) hblock

/-- Settles O31: the retry left after one is taken is the register's predecessor. -/
theorem pollRetransmitsAfterSilence : Obligations.PollRetransmitsAfterSilence :=
  fun _ hphase hlate hleft =>
    ⟨_, retry_pred hleft, exec_reqPoll_of_retryLeft hphase hlate hleft⟩

/-- Settles O32: the branch of POLL that gives up. -/
theorem pollTimesOutAfterTheLastRetry : Obligations.PollTimesOutAfterTheLastRetry :=
  fun _ hphase hlate hspent => exec_reqPoll_of_noRetry hphase hlate hspent

/-- Settles O33: `crcCheck` is one `latch` of the compared status. -/
theorem pollChecksTheCompleteFrame : Obligations.PollChecksTheCompleteFrame := by
  intro s hphase
  rw [exec_reqPoll_of_complete hphase, crcCheck_eq_latch]
  rfl

end Sys2Proof.Proofs
end

section
/-! The statements of 44_facade_requests.md: SEND and RECV, accepted and rejected, and the lines of the two
synchronous routines after their first. -/

namespace Sys2Proof.Proofs

open Sys2Proof.Machine

/-! ## SEND -/

section Send

variable {e : Bool} {r : Byte} {p : List Byte} (m : Len) {s : State}

theorem exec_reqSend_rejected {c : Code} (h : sendReason e r p s.block = some c) :
    exec (.reqSend e r m p) s =
      .next { s with out := ⟨some (responseWord true c 0#8), [], none⟩ } :=
  congrArg Host.Outcome.next (startSend_of_reason m h)

theorem exec_reqSend_accepted (hidle : s.block.phase = .idle) (hlegal : e = true ∨ r = 0#8)
    (hshort : p.length ≤ Config.maxLen) :
    exec (.reqSend e r m p) s = .next (respond .ok 0#8 (sendEffects e r m p (quiet s))) :=
  congrArg Host.Outcome.next (startSend_accepted m hidle hlegal hshort)

end Send

/-! ## A word with the OP of RECV -/

/-- No two requests have the same OP (R78). -/
theorem requestKind_of_sameOp {w : ReqWord} {kind : RequestKind}
    (hop : fieldOp w = fieldOp (requestRowOf kind).value) :
    requestKind w = some kind ∨ requestKind w = none := by
  have hinj : ∀ a b : RequestKind,
      fieldOp (requestRowOf a).value = fieldOp (requestRowOf b).value → a = b := by
    intro a b
    cases a <;> cases b <;> decide
  cases hkind : requestKind w with
  | none => exact .inr rfl
  | some other => exact .inl (congrArg some (hinj _ _ ((fieldOp_of_kind hkind).symm.trans hop)))

/-! ## What a request answers to a routine -/

theorem answered_of_resp {s : State} {w : RespWord} (h : s.out.resp = some w) : answered s = w := by
  rw [answered, h]
  rfl

/-- POLL is the block's alone: it leaves the host's routines where they stand. -/
theorem poll_host (s : State) : (poll s).host = s.host := by
  have hblock : ∀ u : State, (pollBlock u).host = u.host := by
    intro u
    rcases pollBlock_cases u with ⟨-, e⟩ | ⟨-, -, e⟩ | ⟨-, -, -, e⟩ | ⟨-, -, -, e⟩ | ⟨-, e⟩
    · rw [e]
    · rw [e]
    · rw [e]; rfl
    · rw [e]; rfl
    · rw [e, crcCheck_eq_latch]; rfl
  exact hblock (quiet s)

theorem readRxlen_answers (s : State) :
    ∃ w, (readRxlen s).out.resp = some w ∧ (readRxlen s).host = s.host := by
  rcases readRxlen_cases s with ⟨-, e⟩ | ⟨-, e⟩
  · rw [e]; exact ⟨_, rfl, rfl⟩
  · rw [e]; exact ⟨_, rfl, rfl⟩

theorem startSend_answers (e : Bool) (r : Byte) (m : Len) (p : List Byte) (s : State) :
    ∃ w, (startSend e r m p s).out.resp = some w ∧ (startSend e r m p s).host = s.host := by
  rcases startSend_cases e r m p s with ⟨c, -, h⟩ | ⟨-, -, -, h⟩
  · rw [h]; exact ⟨_, rfl, rfl⟩
  · rw [h]; exact ⟨_, rfl, rfl⟩

/-! ## Where the innermost routine goes -/

section Innermost

variable {s : State} {line : Routine} {outer : List Routine} {result : Option CallResult}

theorem resume_of_line (hcalls : s.host.calls = line :: outer) : resume s = routineLine line s := by
  rw [resume, hcalls]

theorem atLine_of_host (next : Routine) (hhost : s.host = ⟨line :: outer, result⟩) :
    atLine next s = { s with host := ⟨next :: outer, result⟩ } := by
  rw [atLine, hhost]
  rfl

theorem returns_of_host (r : CallResult) (hhost : s.host = ⟨line :: outer, result⟩) :
    returns r s = { s with host := ⟨outer, some r⟩ } := by
  rw [returns, hhost]
  rfl

/-- `if r.REJ = 1: return failure(r.CODE)` (R196, R197). -/
theorem afterStart_of_resp {next : Routine} {w : RespWord} (hresp : s.out.resp = some w)
    (hhost : s.host = ⟨line :: outer, result⟩) :
    afterStart next s = { s with host :=
      if (respRej w) then ⟨outer, some (.failure (respCode w))⟩ else ⟨next :: outer, result⟩ } := by
  rw [afterStart, answered_of_resp hresp, returns_of_host _ hhost, atLine_of_host _ hhost]
  split <;> rfl

/-- The loop test (R196, R197): the code tested is `reported`, `Busy` exactly outside `Idle`. -/
theorem afterStatus_readStatus {again : Routine} {onOk : State → State} {ok : HostSide}
    (hhost : s.host = ⟨line :: outer, result⟩)
    (hok : onOk (readStatus s) = { readStatus s with host := ok }) :
    afterStatus again onOk (readStatus s) = { readStatus s with host :=
      if s.block.phase ≠ .idle then ⟨again :: outer, result⟩
      else if s.block.status = .ok then ok
      else ⟨outer, some (.failure s.block.status.code.bits)⟩ } := by
  have hcode : respCode (answered (readStatus s)) = (reported s.block).bits :=
    respCode_responseWord false (reported s.block) 0#8
  rw [afterStatus, hcode, hok, atLine_of_host (s := readStatus s) _ hhost,
    returns_of_host (s := readStatus s) _ hhost]
  by_cases hphase : s.block.phase = .idle
  · rw [reported_of_idle hphase, if_neg (not_not_intro hphase)]
    cases s.block.status <;> rfl
  · rw [reported_of_busy hphase, if_pos hphase]
    rfl

theorem handlerReplies_of_handler {n : Byte} (q : List Byte)
    (hcalls : s.host.calls = .rrsHandler n :: outer) :
    handlerReplies q s = .next (afterStart .rrsReplyPoll (startSend false 0#8 0#16 q s)) := by
  rw [handlerReplies, hcalls]
  rfl

end Innermost

/-! ## One line of a routine is one step (R196, R197) -/

section Line

variable {s : State} {now : Tick} {rest : List Input} {line : Routine} {outer : List Routine}

theorem host_of_calls (hcalls : s.host.calls = line :: outer) :
    s.host = ⟨line :: outer, s.host.result⟩ := by
  rw [← hcalls]

theorem step_of_resume (hin : s.inputs = ⟨now, .resume⟩ :: rest)
    (htick : s.env.tick.toNat ≤ now.toNat) (hcalls : s.host.calls = line :: outer) :
    step s = .next (routineLine line (present ⟨now, .resume⟩ rest s)) := by
  rw [← resume_of_line (s := present ⟨now, .resume⟩ rest s) hcalls]
  exact step_of_fetch_done (fetch_of_input hin htick)

/-- A line that is POLL. -/
theorem step_of_pollLine (next : Routine) (hin : s.inputs = ⟨now, .resume⟩ :: rest)
    (htick : s.env.tick.toNat ≤ now.toNat) (hcalls : s.host.calls = line :: outer)
    (hline : ∀ t, routineLine line t = atLine next (poll t)) :
    ∃ u, exec .reqPoll (present ⟨now, .resume⟩ rest s) = .next u ∧
      step s = .next { u with host := ⟨next :: outer, s.host.result⟩ } := by
  have hhost : (poll (present ⟨now, .resume⟩ rest s)).host = ⟨line :: outer, s.host.result⟩ :=
    (poll_host _).trans (host_of_calls hcalls)
  refine ⟨_, rfl, ?_⟩
  rw [step_of_resume hin htick hcalls, hline, atLine_of_host next hhost]

/-- A line that is GET_STATUS and the loop test. -/
theorem step_of_statusLine (again : Routine) {onOk : State → State} (ok : HostSide)
    (hin : s.inputs = ⟨now, .resume⟩ :: rest) (htick : s.env.tick.toNat ≤ now.toNat)
    (hcalls : s.host.calls = line :: outer)
    (hline : ∀ t, routineLine line t = afterStatus again onOk (readStatus t))
    (hok : ∀ t : State, t.host = ⟨line :: outer, s.host.result⟩ → onOk t = { t with host := ok }) :
    ∃ u, exec .reqGetStatus (present ⟨now, .resume⟩ rest s) = .next u ∧
      step s = .next { u with host :=
        if s.block.phase ≠ .idle then ⟨again :: outer, s.host.result⟩
        else if s.block.status = .ok then ok
        else ⟨outer, some (.failure s.block.status.code.bits)⟩ } := by
  have hhost := host_of_calls hcalls
  refine ⟨_, rfl, ?_⟩
  rw [step_of_resume hin htick hcalls, hline,
    afterStatus_readStatus (s := present ⟨now, .resume⟩ rest s) hhost (hok _ hhost)]
  rfl

/-- A line that is GET_RXLEN and hands the VALUE on. -/
theorem step_of_lengthLine {after : Byte → State → State} (host : Byte → HostSide)
    (hin : s.inputs = ⟨now, .resume⟩ :: rest) (htick : s.env.tick.toNat ≤ now.toNat)
    (hcalls : s.host.calls = line :: outer)
    (hline : ∀ t, routineLine line t = after (respValue (answered (readRxlen t))) (readRxlen t))
    (hafter : ∀ (v : Byte) (t : State), t.host = ⟨line :: outer, s.host.result⟩ →
      after v t = { t with host := host v }) :
    ∃ u w, exec .reqGetRxlen (present ⟨now, .resume⟩ rest s) = .next u ∧ u.out.resp = some w ∧
      step s = .next { u with host := host (respValue w) } := by
  obtain ⟨w, hresp, hhost⟩ := readRxlen_answers (present ⟨now, .resume⟩ rest s)
  refine ⟨_, w, rfl, hresp, ?_⟩
  rw [step_of_resume hin htick hcalls, hline, answered_of_resp hresp,
    hafter _ _ (hhost.trans (host_of_calls hcalls))]

/-- The reply of the handler is sent by SEND with expect 0 (R197). -/
theorem step_of_handlerReply {n : Byte} {q : List Byte}
    (hin : s.inputs = ⟨now, .handlerReply q⟩ :: rest) (htick : s.env.tick.toNat ≤ now.toNat)
    (hcalls : s.host.calls = .rrsHandler n :: outer) :
    ∃ u w, exec (.reqSend false 0#8 0#16 q) (present ⟨now, .handlerReply q⟩ rest s) = .next u ∧
      u.out.resp = some w ∧ step s = .next { u with host :=
        if (respRej w) then ⟨outer, some (.failure (respCode w))⟩
        else ⟨.rrsReplyPoll :: outer, s.host.result⟩ } := by
  obtain ⟨w, hresp, hsame⟩ :=
    startSend_answers false 0#8 0#16 q (present ⟨now, .handlerReply q⟩ rest s)
  have hhost := hsame.trans (host_of_calls hcalls)
  refine ⟨_, w, rfl, hresp, ?_⟩
  calc step s = handlerReplies q (present ⟨now, .handlerReply q⟩ rest s) :=
        step_of_fetch_done (fetch_of_input hin htick)
    _ = .next (afterStart .rrsReplyPoll
          (startSend false 0#8 0#16 q (present ⟨now, .handlerReply q⟩ rest s))) :=
        handlerReplies_of_handler q hcalls
    _ = _ := congrArg Host.Outcome.next (afterStart_of_resp hresp hhost)

end Line

/-! ## The statements -/

/-- Settles O35: what SEND does to the staging is `encodeFrame`. -/
theorem sendStagesAndTransmits : Obligations.SendStagesAndTransmits := by
  intro e r m p s hidle hlegal hshort hwf
  refine ⟨_, exec_reqSend_accepted m hidle hlegal hshort, rfl,
    read_encodeFrame (table := s.params.crcTable) hwf hshort, ?_⟩
  exact staged_encodeFrame (table := s.params.crcTable) hwf hshort

/-- Settles O41: each line by the request that it is. -/
theorem sendAndReceiveSyncLoopsToItsReturn : Obligations.SendAndReceiveSyncLoopsToItsReturn := by
  rintro s t₀ now rest outer hin htick rfl
  refine ⟨fun hcalls => ?_, fun hcalls => ?_, fun hcalls => ?_⟩
  · exact step_of_pollLine .srsStatus hin htick hcalls fun _ => rfl
  · exact step_of_statusLine .srsPoll _ hin htick hcalls (fun _ => rfl)
      fun _ => atLine_of_host .srsLength
  · exact step_of_lengthLine (fun v => ⟨outer, some (.success (some v))⟩) hin htick hcalls
      (fun _ => rfl) fun v _ => returns_of_host (.success (some v))

/-- Settles O42: each line by the request that it is, and the handler's reply by its SEND. -/
theorem receiveAndReplySyncLoopsToItsReturn : Obligations.ReceiveAndReplySyncLoopsToItsReturn := by
  rintro s t₀ now rest outer n q htick rfl
  refine ⟨fun hin => ⟨fun hcalls => ?_, fun hcalls => ?_, fun hcalls => ?_, fun hcalls => ?_,
    fun hcalls => ?_, fun hcalls => ?_⟩, fun hin hcalls => step_of_handlerReply hin htick hcalls⟩
  · exact step_of_pollLine .rrsStatus hin htick hcalls fun _ => rfl
  · exact step_of_statusLine .rrsPoll _ hin htick hcalls (fun _ => rfl)
      fun _ => atLine_of_host .rrsLength
  · exact step_of_lengthLine (fun v => ⟨.rrsHandler v :: outer, s.host.result⟩) hin htick hcalls
      (fun _ => rfl) fun v _ => atLine_of_host (.rrsHandler v)
  · exact step_of_resume hin htick hcalls
  · exact step_of_pollLine .rrsReplyStatus hin htick hcalls fun _ => rfl
  · exact step_of_statusLine .rrsReplyPoll _ hin htick hcalls (fun _ => rfl)
      fun _ => returns_of_host (.success none)

/-- Settles O34: the first check that fails gives the word of the rejection. -/
theorem sendIsRejectedInTheOrderOfItsChecks : Obligations.SendIsRejectedInTheOrderOfItsChecks :=
  fun _ _ m _ _ => ⟨fun hbusy => exec_reqSend_rejected m (sendReason_busy hbusy),
    fun hidle hnoReply hretry =>
      exec_reqSend_rejected m (sendReason_invalidArgument hidle hnoReply hretry),
    fun hidle hlegal hlong => exec_reqSend_rejected m (sendReason_lengthError hidle hlegal hlong)⟩

/-- Settles O36: the two branches of RECV, and a word with its OP is RECV or reserved. -/
theorem recvOpensAReception : Obligations.RecvOpensAReception := by
  intro m s w
  refine ⟨startRecv_accepted m, startRecv_busy m, fun hop hnot => ?_⟩
  have hfield : fieldOp w = fieldOp (requestRowOf .recv).value := by
    apply BitVec.eq_of_toNat_eq
    rw [fieldOp_toNat, hop]
    rfl
  rcases requestKind_of_sameOp hfield with hrecv | hnone
  · exact absurd (requestKind_eq_some.1 hrecv) hnot
  · exact decode_of_noKind hnone []

end Sys2Proof.Proofs
end

section
/-! The statement of 70_reset_and_hazards.md: what reset fixes and what it leaves to the draw. -/

namespace Sys2Proof.Proofs

open Sys2Proof.Machine

/-- Settles O48: `State.resetWith` is one record with no case split on the configuration or the draw, and the
clauses read its block, its output, and of its environment the armed receive and the frames being sent. -/
theorem resetLeavesIdleAndTheCarrierOff : Obligations.ResetLeavesIdleAndTheCarrierOff :=
  fun _ _ => ⟨rfl, rfl, rfl, rfl⟩

end Sys2Proof.Proofs
end
